-- ==== Sys2Proof/Word.lean ====
section
/-! DEFINITION. The word types of the block, the values of its two enumerated registers (10_state.md R21),
and the kinds of input that reach it (30_encoding.md R70, spec/opcode_table.json's formats). -/

namespace Sys2Proof

/-- A byte: 8 bits, unsigned (00_scope.md R11). -/
abbrev Byte := BitVec 8

/-- A counter or length: 16 bits, unsigned (10_state.md R21, 92_eei_decisions.md D4). -/
abbrev Half := BitVec 16

/-- A request word or a result word: 32 bits (30_encoding.md R70). -/
abbrev Word := BitVec 32

/-- The protocol mode (10_state.md R22). Encoding 3 is never held (R34 V8), so it has no constructor. -/
inductive Mode where
  | undetermined
  | protocolA
  | protocolB
deriving DecidableEq, Repr

/-- The parser state (10_state.md R23). -/
inductive ParserState where
  | idle
  | readingHeader
  | readingBody
  | complete
deriving DecidableEq, Repr

/-- What the block can be presented with, one kind for each format of spec/opcode_table.json:
a request word; a pulse of the hard reset input; a received byte that a POLL presents; the two length
bytes of a header whose token a POLL presents; a burst of received bytes that POLLs present in order. -/
inductive Input where
  | request (w : Word)
  | reset
  | rxByte (b : Byte)
  | rxLength (w : Half)
  | wire (bytes : List Byte)
deriving DecidableEq, Repr

end Sys2Proof
end

