-- ==== Sys2Proof/Config.lean ====
section
/-! DEFINITION. The configuration (00_scope.md R8), its conditions W1-W6 (R9), the named configuration TC
(92_eei_decisions.md D21), and the draws of a hard reset (92_eei_decisions.md D6), which are free values. -/

namespace Sys2Proof

/-- HEADER_SIZE (00_scope.md R8). -/
def Config.headerSize : Nat := 5

/-- START (00_scope.md R8). -/
def Config.start : Byte := 0x1B

/-- TOKEN (00_scope.md R8). -/
def Config.token : Byte := 0x0E

/-- CKSUM_ERR_SIZE (00_scope.md R8, the spec's decision D9). -/
def Config.cksumErrSize : Half := 2

/-- The OPEN parameters of 00_scope.md R8. TBL_SIZE is the length of CMD_LEN. -/
structure Cfg where
  signOn : Byte
  maxBody : Half
  tblBase : Byte
  cmdLen : List Byte
  ext0 : Byte
  ext1 : Byte
  cksumErrStatus : Byte
deriving DecidableEq, Repr

/-- TBL_SIZE (00_scope.md R8). -/
def Cfg.tblSize (c : Cfg) : Nat := c.cmdLen.length

/-- CAP = HEADER_SIZE + MAX_BODY + 1 (00_scope.md R8). -/
def Cfg.cap (c : Cfg) : Nat := Config.headerSize + c.maxBody.toNat + 1

/-- W1 to W6 of 00_scope.md R9, in that order. -/
def Cfg.wf (c : Cfg) : Bool :=
  decide (c.signOn ≠ Config.start) &&
  decide (c.ext0 ≠ c.ext1) &&
  decide (c.maxBody.toNat ≤ 0xFFFF - 6) &&
  decide (c.tblBase.toNat + c.tblSize ≤ 256) &&
  c.cmdLen.all (fun l => decide (l.toNat ≤ c.cap)) &&
  decide (2 ≤ c.cap)

/-- The test configuration TC (92_eei_decisions.md D21). DESIGN CHOICE (log 1): State.reset holds it; unsafe,
for the spec does not claim that it is the firmware's. -/
def Config.tc : Cfg where
  signOn := 0x30
  maxBody := 275
  tblBase := 0x30
  cmdLen := [1, 2, 0, 5, 0, 0, 0, 0]
  ext0 := 0x45
  ext1 := 0x57
  cksumErrStatus := 0xC1

/-- What the n-th RESET step after power-up draws for `seq` (92_eei_decisions.md D6): a FREE VALUE (log 4). DESIGN CHOICE:
it depends on the draw's number alone, so two instances whose draws have the same number agree, which the spec leaves open
(60_exceptions.md R220). -/
opaque Config.freeSeq : Nat → Byte

/-- What the n-th RESET step after power-up draws for `bodySize` (92_eei_decisions.md D6): a FREE VALUE (log 4). DESIGN CHOICE:
it depends on the draw's number alone, so two instances whose draws have the same number agree, which the spec leaves open
(60_exceptions.md R220). -/
opaque Config.freeSize : Nat → Half

/-- What the n-th RESET step after power-up draws for frame-buffer byte i (92_eei_decisions.md D6): a FREE VALUE (log 4).
DESIGN CHOICE: it depends on the draw's number and the index alone, so two instances whose draws have the same number agree,
which the spec leaves open (60_exceptions.md R220). -/
opaque Config.freeBufByte : Nat → Nat → Byte

/-- SEQ_INIT of draw k (00_scope.md R8). Draw 0 is power-up. DESIGN CHOICE (log 2), unsafe: it is 0 there. -/
def Config.seqInit : Nat → Byte
  | 0 => 0
  | k + 1 => Config.freeSeq k

/-- SIZE_INIT of draw k (00_scope.md R8). Draw 0 is power-up. DESIGN CHOICE (log 2), unsafe: it is 0 there. -/
def Config.sizeInit : Nat → Half
  | 0 => 0
  | k + 1 => Config.freeSize k

/-- BUF_INIT[i] of draw k (00_scope.md R8): what a frame-buffer byte that nothing has written since that draw reads as.
Draw 0 is power-up. DESIGN CHOICE (log 3), unsafe: every byte is 0 there. -/
def Config.bufInit : Nat → Nat → Byte
  | 0, _ => 0
  | k + 1, i => Config.freeBufByte k i

/-- The part of the context that says which row of the received-byte map a byte is (30_encoding.md R82). -/
structure RxContext where
  cfg : Cfg
  mode : Mode
  state : ParserState
  bytesRead : Half
deriving DecidableEq, Repr

/-- The context right after power-up under TC (70_reset_and_hazards.md R232). -/
def Config.resetContext : RxContext where
  cfg := Config.tc
  mode := .undetermined
  state := .idle
  bytesRead := 0

end Sys2Proof
end

