-- ==== Sys2Proof/Syntax.lean ====
section
/-! DEFINITION. The instructions: one constructor for each row of spec/opcode_table.json. -/

namespace Sys2Proof

/-- The operations of the block. The first nine rows are request words (30_encoding.md R71, 43_interpreter_port.md R175),
`reset` is the hard reset input (70_reset_and_hazards.md R231), the `rx` rows are received bytes as the map of
30_encoding.md R82 and the header checks of 40_frame_state_machine.md R112 and R113 class them, and the last two are whole
frames on the wire (30_encoding.md R78, R79). -/
inductive Instr where
  | poll (rxValid : Bool) (rxData : Byte)
  | ensure (req : Half)
  | send (status : Byte) (size : Half)
  | bufRd (addr : Half)
  | bufWr (data : Byte) (addr : Half)
  | getSize
  | reservedOp67 (low : BitVec 29)
  | reservedOp815 (low : BitVec 31)
  | reservedBits (w : Word)
  | reset
  | rxDetectSignOn (b : Byte)
  | rxDetectStart (b : Byte)
  | rxDetectFail (b : Byte)
  | rxAStart (b : Byte)
  | rxABadStart (b : Byte)
  | rxAToken (b : Byte)
  | rxALength (len : Half)
  | rxBExt (b : Byte)
  | rxBTable (b : Byte)
  | rxBUnresolved (b : Byte)
  | wireAFrame (seq : Byte) (body : List Byte) (checksum : Byte)
  | wireBFrame (code : Byte) (params : List Byte)
deriving DecidableEq, Repr

end Sys2Proof
end

