-- ==== Sys2Proof/Decode.lean ====
section
/-! DEFINITION. Reading and writing the encodings: request words (30_encoding.md R71-R74), the map of received bytes
(R82), the two wire frames (R78, R79), and the encoder that goes with each. -/

namespace Sys2Proof

/-! ### Helpers -/

/-- The exclusive-or of a byte sequence, seeded with 0 (00_scope.md R11, R16 "Checksum"). -/
def xorAll (bs : List Byte) : Byte := bs.foldl (· ^^^ ·) 0

/-- `hi ++ lo`: the big-endian 16-bit value of two bytes (00_scope.md R11, 20_memory.md R56). -/
def be16 (hi lo : Byte) : Half := hi ++ lo

/-- Bits 15..8 of a 16-bit value. -/
def hi8 (v : Half) : Byte := v.extractLsb' 8 8

/-- Bits 7..0 of a 16-bit value. -/
def lo8 (v : Half) : Byte := v.extractLsb' 0 8

/-! ### Request words -/

/-- The reserved bits of an operation code, as a mask (30_encoding.md R71); a reserved operation code has none. -/
def reservedMask (op : Nat) : Word :=
  match op with
  | 0 => 0x0FFFFE00
  | 1 => 0x0FFF0000
  | 2 => 0x0F000000
  | 3 => 0x0FFF0000
  | 4 => 0x0F000000
  | 5 => 0x0FFFFFFF
  | _ => 0

/-- The operation code of a request word, bits 31..28 (30_encoding.md R71). -/
def opOf (w : Word) : Nat := (w.extractLsb' 28 4).toNat

/-- The operation of a request word. Every word has one: the reserved words are rows of the table (43_interpreter_port.md R175). -/
def decodeWord (w : Word) : Instr :=
  if w &&& reservedMask (opOf w) ≠ 0 then .reservedBits w
  else match opOf w with
    | 0 => .poll (w.getLsbD 8) (w.extractLsb' 0 8)
    | 1 => .ensure (w.extractLsb' 0 16)
    | 2 => .send (w.extractLsb' 16 8) (w.extractLsb' 0 16)
    | 3 => .bufRd (w.extractLsb' 0 16)
    | 4 => .bufWr (w.extractLsb' 16 8) (w.extractLsb' 0 16)
    | 5 => .getSize
    | 6 | 7 => .reservedOp67 (w.extractLsb' 0 29)
    | _ => .reservedOp815 (w.extractLsb' 0 31)

/-- The word of `POLL b` or `POLL -` (30_encoding.md R84); a POLL that presents no byte may still carry any rx_data (R72). -/
def pollRequest (rxValid : Bool) (rxData : Byte) : Word := 0#23 ++ BitVec.ofBool rxValid ++ rxData

/-- The word of `ENSURE n` (30_encoding.md R84). -/
def ensureRequest (req : Half) : Word := 0x1000#16 ++ req

/-- The word of `SEND s, n` (30_encoding.md R84). -/
def sendRequest (status : Byte) (size : Half) : Word := 0x20#8 ++ status ++ size

/-- The word of `BUF_RD a` (30_encoding.md R84). -/
def bufRdRequest (addr : Half) : Word := 0x3000#16 ++ addr

/-- The word of `BUF_WR a, d` (30_encoding.md R84). -/
def bufWrRequest (data : Byte) (addr : Half) : Word := 0x40#8 ++ data ++ addr

/-- The word of `GET_SIZE` (30_encoding.md R84). -/
def getSizeRequest : Word := 0x50000000

/-- A word with operation code 0110 or 0111: bits 31..29 are 011 (spec/opcode_table.json). -/
def reservedOp67Request (low : BitVec 29) : Word := 3#3 ++ low

/-- A word with operation code 1000 to 1111: bit 31 is 1 (spec/opcode_table.json). -/
def reservedOp815Request (low : BitVec 31) : Word := 1#1 ++ low

/-! ### Received bytes -/

/-- ResolveLength (40_frame_state_machine.md R109): the length of a ProtocolB frame, counting the command byte.
The extended codes are tested before the table (92_eei_decisions.md D8). -/
def resolveLength (c : Cfg) (b : Byte) : Option Half :=
  if b = c.ext0 ∨ b = c.ext1 then some 2
  else if c.tblBase.toNat ≤ b.toNat then
    (c.cmdLen[b.toNat - c.tblBase.toNat]?).map (fun l => l.setWidth 16)
  else none

/-- The row of the received-byte map that a byte is in Idle and ProtocolB (30_encoding.md R82). -/
def decodeIdleB (c : Cfg) (b : Byte) : Instr :=
  if b = c.ext0 ∨ b = c.ext1 then .rxBExt b
  else match resolveLength c b with
    | none => .rxBUnresolved b
    | some l => if l = 0 then .rxBUnresolved b else .rxBTable b

/-- The row that a received byte is, by the context (30_encoding.md R82; the token position is header index 4, R112).
Anywhere else no byte value is special: it is a plain POLL. -/
def decodeRxByte (x : RxContext) (b : Byte) : Instr :=
  match x.state with
  | .idle =>
    match x.mode with
    | .undetermined =>
      if b = x.cfg.signOn then .rxDetectSignOn b
      else if b = Config.start then .rxDetectStart b
      else .rxDetectFail b
    | .protocolA => if b = Config.start then .rxAStart b else .rxABadStart b
    | .protocolB => decodeIdleB x.cfg b
  | .readingHeader => if x.bytesRead = 4 then .rxAToken b else .poll true b
  | .readingBody | .complete => .poll true b

/-! ### Wire frames -/

/-- Why a burst of bytes is not one wire frame. -/
inductive FrameError where
  /-- It has no byte. -/
  | empty
  /-- The parser is not in Idle, so the burst does not begin with a first byte (R82). -/
  | notIdle
  /-- Its first byte is no first byte of a frame in this mode (30_encoding.md R82). -/
  | badFirstByte
  /-- It ends before the five header bytes of a ProtocolA frame (R78). -/
  | shortHeader
  /-- Byte 4 is not TOKEN (R78). -/
  | badToken
  /-- It is not the length its header or its code gives (R78, R79). -/
  | wrongLength
  /-- Its ProtocolB code gives no length (R79). -/
  | unresolvedCode
deriving DecidableEq, Repr

/-- The five header bytes of a ProtocolA frame (30_encoding.md R78), received or sent. -/
def headerA (seq : Byte) (len : Half) : List Byte := [Config.start, seq, hi8 len, lo8 len, Config.token]

/-- The CHECKSUM field of a ProtocolA frame: the XOR of every byte before it (30_encoding.md R78). -/
def checksumA (seq : Byte) (body : List Byte) : Byte := xorAll (headerA seq (BitVec.ofNat 16 body.length) ++ body)

/-- The bytes of a ProtocolA frame, with any last byte (30_encoding.md R78). -/
def frameA (seq : Byte) (body : List Byte) (checksum : Byte) : List Byte :=
  headerA seq (BitVec.ofNat 16 body.length) ++ body ++ [checksum]

/-- Reads the layout of a ProtocolA frame (30_encoding.md R78). The length bound and the checksum are the parser's verdicts
(40_frame_state_machine.md R113, R117), not the layout's. -/
def decodeFrameA (bs : List Byte) : Except FrameError Instr :=
  match bs with
  | st :: q :: h :: l :: tk :: rest =>
    if st ≠ Config.start then .error .badFirstByte
    else if tk ≠ Config.token then .error .badToken
    else if rest.length ≠ (be16 h l).toNat + 1 then .error .wrongLength
    else .ok (.wireAFrame q rest.dropLast (rest.getLastD 0))
  | _ => .error .shortHeader

/-- Reads the layout of a ProtocolB frame (30_encoding.md R79): a code and the bytes its length gives it. For an extended
code that is the one byte after it; the bytes an ENSURE asks for come later, as received bytes. -/
def decodeFrameB (c : Cfg) (bs : List Byte) : Except FrameError Instr :=
  match bs with
  | code :: params =>
    match resolveLength c code with
    | none => .error .unresolvedCode
    | some l => if l.toNat = params.length + 1 then .ok (.wireBFrame code params) else .error .wrongLength
  | [] => .error .empty

/-- Reads a burst of bytes as one wire frame of the protocol the mode or the first byte selects (30_encoding.md R82). A frame
begins in Idle. -/
def decodeWire (x : RxContext) (bs : List Byte) : Except FrameError Instr :=
  match bs with
  | [] => .error .empty
  | b :: _ =>
    if x.state ≠ .idle then .error .notIdle
    else match x.mode with
      | .protocolA => decodeFrameA bs
      | .protocolB => decodeFrameB x.cfg bs
      | .undetermined =>
        if b = x.cfg.signOn then decodeFrameB x.cfg bs
        else if b = Config.start then decodeFrameA bs
        else .error .badFirstByte

/-! ### All inputs -/

/-- Reads any input. Only a burst of bytes that is no frame is rejected, by name. -/
def decodeInput (x : RxContext) : Input → Except FrameError Instr
  | .request w => .ok (decodeWord w)
  | .reset => .ok .reset
  | .rxByte b => .ok (decodeRxByte x b)
  | .rxLength w => .ok (.rxALength w)
  | .wire bs => decodeWire x bs

/-- The input that stands for an instruction: the inverse of `decodeInput`, written from the same tables. -/
def encode : Instr → Input
  | .poll v d => .request (pollRequest v d)
  | .ensure req => .request (ensureRequest req)
  | .send st size => .request (sendRequest st size)
  | .bufRd addr => .request (bufRdRequest addr)
  | .bufWr data addr => .request (bufWrRequest data addr)
  | .getSize => .request getSizeRequest
  | .reservedOp67 low => .request (reservedOp67Request low)
  | .reservedOp815 low => .request (reservedOp815Request low)
  | .reservedBits w => .request w
  | .reset => .reset
  | .rxDetectSignOn b => .rxByte b
  | .rxDetectStart b => .rxByte b
  | .rxDetectFail b => .rxByte b
  | .rxAStart b => .rxByte b
  | .rxABadStart b => .rxByte b
  | .rxAToken b => .rxByte b
  | .rxALength len => .rxLength len
  | .rxBExt b => .rxByte b
  | .rxBTable b => .rxByte b
  | .rxBUnresolved b => .rxByte b
  | .wireAFrame q body ck => .wire (frameA q body ck)
  | .wireBFrame code params => .wire (code :: params)

/-! ### The opcode table's numbering -/

/-- The input that the bits `w` of a row of the opcode table stand for, by how many bits the table gives the row: none for
RESET (a pulse, no word), 8 for a received byte, 16 for the two length bytes, 32 for a request word. -/
def tableInput (nbits w : Nat) : Input :=
  if nbits = 0 then .reset
  else if nbits ≤ 8 then .rxByte (BitVec.ofNat 8 w)
  else if nbits ≤ 16 then .rxLength (BitVec.ofNat 16 w)
  else .request (BitVec.ofNat 32 w)

/-- The instruction the decoder reads from a row's bits, in the context right after power-up. -/
def decodeTableWord (nbits w : Nat) : Option Instr :=
  match decodeInput Config.resetContext (tableInput nbits w) with
  | .ok i => some i
  | .error _ => none

end Sys2Proof
end

