-- ==== Sys2Proof/Machine/State.lean ====
section
/-! DEFINITION. The parser context (10_state.md R20, R21), the frame buffer (20_memory.md R50), what the block has taken from
and handed to its surroundings, and the state right after power-up. -/

namespace Sys2Proof.Machine

/-- The reasons of a model fault (60_exceptions.md R205). -/
inductive FaultReason where
  /-- ENSURE in Idle or ReadingHeader (41_length_negotiation.md R144). -/
  | ensurePhase
  /-- ENSURE raising the target above CAP (41_length_negotiation.md R145). -/
  | ensureOverflow
  /-- SEND of more than CAP bytes (42_response_encoder.md R157). -/
  | sendOverflow
  /-- BUF_RD or BUF_WR outside Complete (43_interpreter_port.md R171). -/
  | bufPhase
  /-- BUF_RD or BUF_WR at or above CAP (20_memory.md R59). -/
  | bufRange
  /-- A reserved request word (43_interpreter_port.md R175). -/
  | refused
deriving DecidableEq, Repr

/-- What a model fault records: the reason and the request word that raised it (60_exceptions.md R205). -/
structure FaultRecord where
  reason : FaultReason
  word : Word
deriving DecidableEq, Repr

/-- Why the machine stops with a fault. -/
inductive Fault where
  /-- Raised by every step of a state whose `fault` register is not none: nothing has a step any more
  (60_exceptions.md R206). Safe: the real block would go on (92_eei_decisions.md D24). -/
  | stuck (reason : FaultReason)
  /-- Raised by a POLL whose store index is outside the frame buffer, which happens in no state that a run reaches
  (20_memory.md R59, 10_state.md R34). Safe: nothing is claimed of such a POLL. -/
  | storeOutOfRange
deriving DecidableEq, Repr

/-- Why a step is refused. -/
inductive Refusal where
  /-- Raised by an arm of `exec` that has no meaning yet (there is none). Safe. -/
  | notModelled (mnemonic : String)
  /-- Raised by every step under a configuration that breaks W1 to W6 (00_scope.md R9: a model refuses such a
  configuration). Safe: nothing is claimed under such a configuration. -/
  | illFormedConfig
deriving DecidableEq, Repr

/-- Frame-buffer bytes that were written since the last draw: cells in strictly rising order of index, none of them
holding what an unlisted index reads as (`Config.bufInit`). -/
abbrev Memory := List Host.Cell

/-- The state of one instance of the block (10_state.md R21), with the model's record of its inputs and outputs. -/
structure State where
  /-- The configuration, constant while the block runs (70_reset_and_hazards.md R234). -/
  cfg : Cfg
  /-- 10_state.md R22. -/
  mode : Mode
  /-- 10_state.md R23. -/
  state : ParserState
  /-- 10_state.md R24. -/
  bytesRead : Half
  /-- 10_state.md R25. -/
  bytesWanted : Half
  /-- 10_state.md R26. -/
  cksum : Byte
  /-- 10_state.md R27. -/
  seq : Byte
  /-- 10_state.md R28. -/
  bodySize : Half
  /-- 10_state.md R29. -/
  fault : Option FaultRecord
  /-- The frame buffer (20_memory.md R50). -/
  buf : Memory
  /-- The model's own: how many hard resets since power-up; it numbers the draws of 70_reset_and_hazards.md R231 (log 4). -/
  draws : Nat
  /-- The model's own: what is still to be presented to the block, oldest first (log 7). -/
  port : List Input
  /-- The consumed part of the receive stream (20_memory.md R51), in stream order. -/
  rxStream : List Byte
  /-- The bytes consumed since the last soft or hard reset (10_state.md R34 V7), in order. -/
  rxFrame : List Byte
  /-- The transmit stream (20_memory.md R52), in order. -/
  txStream : List Byte
  /-- The transmit sequence of the last operation (00_scope.md R13). -/
  txLast : List Byte
  /-- The result word of the last operation (30_encoding.md R75); none where the last step returned none. -/
  result : Option Word
deriving DecidableEq, Repr

/-- The block right after power-up under a configuration (70_reset_and_hazards.md R232). Draw 0 stands for the power-up draws
of `seq`, `bodySize` and the frame buffer. -/
def State.powerUp (c : Cfg) : State where
  cfg := c
  mode := .undetermined
  state := .idle
  bytesRead := 0
  bytesWanted := 1
  cksum := 0
  seq := Config.seqInit 0
  bodySize := Config.sizeInit 0
  fault := none
  buf := []
  draws := 0
  port := []
  rxStream := []
  rxFrame := []
  txStream := []
  txLast := []
  result := none

/-- The block right after power-up (70_reset_and_hazards.md R232), under TC (log 1). -/
def State.reset : State := State.powerUp Config.tc

end Sys2Proof.Machine
end

