-- ==== Sys2Proof/Machine/Flags.lean ====
section
/-! DEFINITION. The block has no flag register (10_state.md R32): what an operation reports is its result word
(30_encoding.md R75, R76), and this file holds the words. With them, the encodings of the two enumerated registers
(10_state.md R21). -/

namespace Sys2Proof

/-- The 2-bit encoding of `mode` (10_state.md R21). -/
def Mode.code : Mode → BitVec 2
  | .undetermined => 0
  | .protocolA => 1
  | .protocolB => 2

/-- The 2-bit encoding of `state` (10_state.md R21). -/
def ParserState.code : ParserState → BitVec 2
  | .idle => 0
  | .readingHeader => 1
  | .readingBody => 2
  | .complete => 3

end Sys2Proof

namespace Sys2Proof.Machine

/-- The outcome of a POLL (60_exceptions.md R200, 30_encoding.md R76). -/
inductive PollKind where
  | incomplete
  | headerError
  | checksumError
  | command (c : Byte)
deriving DecidableEq, Repr

/-- The `kind` field (30_encoding.md R76). -/
def pollKindCode : PollKind → BitVec 2
  | .incomplete => 0
  | .headerError => 1
  | .checksumError => 2
  | .command _ => 3

/-- The `code` field (30_encoding.md R76). -/
def pollCodeField : PollKind → Byte
  | .incomplete => 0
  | .headerError => 0
  | .checksumError => 0
  | .command c => c

/-- POLL's result word: [10] rx_consume, [9:8] kind, [7:0] code (30_encoding.md R75). -/
def pollWord (consume : Bool) (k : PollKind) : Word :=
  0#21 ++ BitVec.ofBool consume ++ pollKindCode k ++ pollCodeField k

/-- ENSURE's result word: [0] ok (30_encoding.md R75). -/
def okWord (ok : Bool) : Word := 0#31 ++ BitVec.ofBool ok

/-- BUF_RD's result word: [7:0] the byte read (30_encoding.md R75). -/
def byteWord (b : Byte) : Word := 0#24 ++ b

/-- GET_SIZE's result word: [15:0] bodySize (30_encoding.md R75). -/
def sizeWord (n : Half) : Word := 0#16 ++ n

/-- The result word of SEND and BUF_WR (30_encoding.md R75). -/
def zeroWord : Word := 0

/-- `rx_consume` of a POLL's result word (30_encoding.md R77). -/
def consumedBit (w : Word) : Bool := w.getLsbD 10

end Sys2Proof.Machine
end

