-- ==== Sys2Proof/Machine/Ops.lean ====
section
/-! DEFINITION. The shared operations: the frame buffer, the primitives of 00_scope.md R13, both resets
(70_reset_and_hazards.md R230, R231), recording a model fault (60_exceptions.md R205) and the check that comes before
every operation (R206). -/

namespace Sys2Proof.Machine

/-! ### The frame buffer -/

/-- The byte at an index, where draw `d` filled what nothing has written since. -/
def Memory.read (d : Nat) : Memory → Nat → Byte
  | [], a => Config.bufInit d a
  | (k, v) :: m, a => if a = k then v else Memory.read d m a

/-- A cell list in front of which a cell is put, unless the cell holds what its index reads as unlisted. -/
def Memory.put (d : Nat) (a : Nat) (v : Byte) (m : Memory) : Memory :=
  if v = Config.bufInit d a then m else (a, v) :: m

/-- Writes one byte and keeps the canonical form. -/
def Memory.write (d : Nat) : Memory → Nat → Byte → Memory
  | [], a, v => Memory.put d a v []
  | (k, w) :: m, a, v =>
    if a < k then Memory.put d a v ((k, w) :: m)
    else if a = k then Memory.put d a v m
    else (k, w) :: Memory.write d m a v

/-- The canonical form: strictly rising indices, and no cell that holds what its index reads as unlisted. -/
def Memory.wf (d : Nat) : Memory → Bool
  | [] => true
  | (k, v) :: m => decide (v ≠ Config.bufInit d k) && m.all (fun c => decide (k < c.1)) && Memory.wf d m

/-- Every listed index is an index of the frame buffer. -/
def Memory.below (cap : Nat) (m : Memory) : Bool := m.all (fun c => decide (c.1 < cap))

/-- `buf[i]` (00_scope.md R13). -/
def bufByte (s : State) (i : Nat) : Byte := Memory.read s.draws s.buf i

/-- `buf[0], …, buf[n-1]`. -/
def bufBytes (s : State) (n : Nat) : List Byte := (List.range n).map (bufByte s)

/-- `buf[i] <- v` (00_scope.md R13). -/
def setBufByte (i : Nat) (v : Byte) (s : State) : State := { s with buf := Memory.write s.draws s.buf i v }

/-! ### The primitives of 00_scope.md R13 -/

/-- The start of an operation: it has returned and transmitted nothing yet. -/
def startOp (s : State) : State := { s with txLast := [], result := none }

/-- `TxEmit` (00_scope.md R13): appends to the transmit sequence of the operation and to the transmit stream. -/
def txEmit (bs : List Byte) (s : State) : State := { s with txStream := s.txStream ++ bs, txLast := s.txLast ++ bs }

/-- `return R` (00_scope.md R13). -/
def answer (w : Word) (s : State) : State := { s with result := some w }

/-- `RxTake` and the byte intake (40_frame_state_machine.md R102). -/
def takeByte (b : Byte) (s : State) : State :=
  { s with
    cksum := s.cksum ^^^ b
    buf := Memory.write s.draws s.buf s.bytesRead.toNat b
    bytesRead := s.bytesRead + 1
    rxStream := s.rxStream ++ [b]
    rxFrame := s.rxFrame ++ [b] }

/-- `SoftReset` (70_reset_and_hazards.md R230). -/
def softReset (s : State) : State :=
  { s with state := .idle, bytesRead := 0, bytesWanted := 1, cksum := 0, rxFrame := [] }

/-- `HardReset` (70_reset_and_hazards.md R231). The draws of the new session are free values (log 4). -/
def hardReset (s : State) : State :=
  softReset { s with
    mode := .undetermined
    seq := Config.seqInit (s.draws + 1)
    bodySize := Config.sizeInit (s.draws + 1)
    buf := []
    draws := s.draws + 1 }

/-- `raise Fault(reason)` (00_scope.md R13): the state after an operation that breaks a contract. Nothing else changes,
nothing is transmitted and no result word is returned (60_exceptions.md R205). -/
def raiseFault (r : FaultReason) (w : Word) (s : State) : State := { s with fault := some ⟨r, w⟩ }

/-! ### Before every operation -/

/-- Answers `o` unless the configuration is ill formed (00_scope.md R9) or a model fault is recorded (60_exceptions.md R206). -/
def ifReady (s : State) (o : Host.Outcome State Fault Refusal) : Host.Outcome State Fault Refusal :=
  if s.cfg.wf then
    match s.fault with
    | none => o
    | some f => .fault (.stuck f.reason)
  else .refused .illFormedConfig

/-- One operation: the check of `ifReady`, then the operation with nothing returned or transmitted yet. -/
def operation (s : State) (body : State → Host.Outcome State Fault Refusal) : Host.Outcome State Fault Refusal :=
  ifReady s (body (startOp s))

/-- Consumes a byte (40_frame_state_machine.md R102) and goes on with `rest`. The store index is inside the frame buffer in
every state a run reaches (20_memory.md R59). -/
def presentByte (b : Byte) (rest : State → State) (s : State) : Host.Outcome State Fault Refusal :=
  if s.bytesRead.toNat < s.cfg.cap then .next (rest (takeByte b s)) else .fault .storeOutOfRange

end Sys2Proof.Machine
end

