-- ==== Sys2Proof/Machine/Ensure.lean ====
section
/-! DEFINITION. Length negotiation (41_length_negotiation.md): ENSURE. -/

namespace Sys2Proof.Machine

/-- Raising the target (R141) and reopening a completed frame (R143, the spec's decision D10). -/
def raiseTarget (req : Half) (s : State) : State :=
  { s with
    bytesWanted := req
    state := match s.state with
      | .complete => .readingBody
      | .idle => .idle
      | .readingHeader => .readingHeader
      | .readingBody => .readingBody }

/-- ENSURE (41_length_negotiation.md R140). -/
def execEnsure (req : Half) (s : State) : Host.Outcome State Fault Refusal :=
  operation s fun s =>
    if s.state = .idle ∨ s.state = .readingHeader then .next (raiseFault .ensurePhase (ensureRequest req) s)
    else if req ≤ s.bytesWanted then .next (answer (okWord true) s)
    else if s.cfg.cap < req.toNat then .next (raiseFault .ensureOverflow (ensureRequest req) s)
    else .next (answer (okWord false) (raiseTarget req s))

end Sys2Proof.Machine
end

