-- ==== Sys2Proof/Machine/Operands.lean ====
section
/-! DEFINITION. The operands an operation takes from the context: the fields of a received header (30_encoding.md R80) and
the context by which received bytes are read (R82). -/

namespace Sys2Proof.Machine

/-- `len = buf[2] ++ buf[3]` (30_encoding.md R80). -/
def headerLength (s : State) : Half := be16 (bufByte s 2) (bufByte s 3)

/-- `seq = buf[1]` (30_encoding.md R80). -/
def headerSeq (s : State) : Byte := bufByte s 1

/-- The token position of a header (30_encoding.md R78). -/
def headerToken (s : State) : Byte := bufByte s 4

/-- The command code, `buf[0]` (30_encoding.md R80). -/
def commandCode (s : State) : Byte := bufByte s 0

/-- The context by which a received byte is read. -/
def context (s : State) : RxContext where
  cfg := s.cfg
  mode := s.mode
  state := s.state
  bytesRead := s.bytesRead

end Sys2Proof.Machine
end

