-- ==== Sys2Proof/Machine/Port.lean ====
section
/-! DEFINITION. The interpreter port (43_interpreter_port.md): BUF_RD, BUF_WR, GET_SIZE and the reserved words. -/

namespace Sys2Proof.Machine

/-- The phase and range checks of a buffer access (R171, 20_memory.md R59), then the access. -/
def bufAccess (w : Word) (addr : Half) (access : State → State) (s : State) : Host.Outcome State Fault Refusal :=
  operation s fun s =>
    if s.state ≠ .complete then .next (raiseFault .bufPhase w s)
    else if s.cfg.cap ≤ addr.toNat then .next (raiseFault .bufRange w s)
    else .next (access s)

/-- BUF_RD (R172). -/
def execBufRd (addr : Half) (s : State) : Host.Outcome State Fault Refusal :=
  bufAccess (bufRdRequest addr) addr (fun s => answer (byteWord (bufByte s addr.toNat)) s) s

/-- BUF_WR (R173). -/
def execBufWr (data : Byte) (addr : Half) (s : State) : Host.Outcome State Fault Refusal :=
  bufAccess (bufWrRequest data addr) addr (fun s => answer zeroWord (setBufByte addr.toNat data s)) s

/-- GET_SIZE (R174). -/
def execGetSize (s : State) : Host.Outcome State Fault Refusal :=
  operation s fun s => .next (answer (sizeWord s.bodySize) s)

/-- A reserved word (R175): the fault is recorded, and nothing else changes. -/
def refuseWord (w : Word) (s : State) : Host.Outcome State Fault Refusal :=
  operation s fun s => .next (raiseFault .refused w s)

/-- RESERVED_OP_6_7 (R175). -/
def execReservedOp67 (low : BitVec 29) (s : State) : Host.Outcome State Fault Refusal :=
  refuseWord (reservedOp67Request low) s

/-- RESERVED_OP_8_15 (R175). -/
def execReservedOp815 (low : BitVec 31) (s : State) : Host.Outcome State Fault Refusal :=
  refuseWord (reservedOp815Request low) s

/-- RESERVED_BITS (R175). -/
def execReservedBits (w : Word) (s : State) : Host.Outcome State Fault Refusal := refuseWord w s

end Sys2Proof.Machine
end

