-- ==== Sys2Proof/Machine/Reset.lean ====
section
/-! DEFINITION. The hard reset input (70_reset_and_hazards.md R231): RESET. -/

namespace Sys2Proof.Machine

/-- RESET: one pulse of the hard reset input. It has no step once a model fault is recorded (60_exceptions.md R206). -/
def execReset (s : State) : Host.Outcome State Fault Refusal :=
  operation s fun s => .next (hardReset s)

end Sys2Proof.Machine
end

