-- ==== Sys2Proof/Machine/Response.lean ====
section
/-! DEFINITION. The response encoder (42_response_encoder.md): SEND, and the part of it that POLL uses for the
checksum-error response (R158). -/

namespace Sys2Proof.Machine

/-- The bytes of a response of `size` bytes from the frame buffer as it stands: a ProtocolA frame (R152 to R154), or the raw
bytes in ProtocolB and, by the spec's decision D14, in Undetermined mode (R155). -/
def responseBytes (size : Half) (s : State) : List Byte :=
  match s.mode with
  | .protocolA =>
    let sent := headerA s.seq size ++ bufBytes s size.toNat
    sent ++ [xorAll sent]
  | .protocolB => bufBytes s size.toNat
  | .undetermined => bufBytes s size.toNat

/-- `EmitResponse` (R150): status overwrite (R151), transmission, release (R156). -/
def emitResponse (status : Byte) (size : Half) (s : State) : State :=
  let s := setBufByte 1 status s
  softReset (txEmit (responseBytes size s) s)

/-- SEND (42_response_encoder.md R150, R157). -/
def execSend (status : Byte) (size : Half) (s : State) : Host.Outcome State Fault Refusal :=
  operation s fun s =>
    if s.cfg.cap < size.toNat then .next (raiseFault .sendOverflow (sendRequest status size) s)
    else .next (answer zeroWord (emitResponse status size s))

end Sys2Proof.Machine
end

