-- ==== Sys2Proof/Machine/Poll.lean ====
section
/-! DEFINITION. The frame state machine (40_frame_state_machine.md): POLL and its sub-steps. -/

namespace Sys2Proof.Machine

/-- The result of a POLL that consumed a byte and ends no frame (R103). -/
def incomplete (s : State) : State := answer (pollWord true .incomplete) s

/-- Every HeaderError outcome (R119): a soft reset, and no byte transmitted. -/
def headerError (s : State) : State := answer (pollWord true .headerError) (softReset s)

/-- Goes on to a state that waits for `n` bytes in all. -/
def await (st : ParserState) (n : Half) (s : State) : State := { s with state := st, bytesWanted := n }

/-- Completion (R121). -/
def completeFrame (s : State) : State :=
  answer (pollWord true (.command (commandCode s))) { s with state := .complete, bodySize := s.bytesRead - 1 }

/-- The checksum-error response and its result (R117, 42_response_encoder.md R158). -/
def checksumError (s : State) : State :=
  answer (pollWord true .checksumError) (emitResponse s.cfg.cksumErrStatus Config.cksumErrSize s)

/-- The body completion step (R117, R121). -/
def bodyComplete (s : State) : State :=
  if s.mode = .protocolA ∧ s.cksum ≠ 0 then checksumError s else completeFrame s

/-- Header acceptance (R114). -/
def acceptHeader (s : State) : State :=
  incomplete { s with
    seq := headerSeq s
    bytesRead := 0
    bytesWanted := headerLength s + 1
    state := .readingBody }

/-- The length check and what follows it (R113, R114). -/
def lengthStep (s : State) : State :=
  if s.cfg.maxBody < headerLength s then headerError s else acceptHeader s

/-- The header step (R112 to R115). -/
def headerStep (s : State) : State :=
  if headerToken s ≠ Config.token then headerError s else lengthStep s

/-- The first byte of a ProtocolA frame (R108). -/
def firstByteA (b : Byte) (s : State) : State :=
  if b ≠ Config.start then headerError s
  else incomplete (await .readingHeader (BitVec.ofNat 16 Config.headerSize) s)

/-- The ProtocolB transition to a frame of `l` bytes and, where that is reached, the fall-through (R110, R111). -/
def enterBodyB (l : Half) (s : State) : State :=
  let s := await .readingBody l s
  if s.bytesRead < s.bytesWanted then incomplete s else bodyComplete s

/-- The first byte of a ProtocolB frame (R109 to R111). -/
def firstByteB (b : Byte) (s : State) : State :=
  match resolveLength s.cfg b with
  | none => headerError s
  | some l => if l = 0 then headerError s else enterBodyB l s

/-- The Idle step (R105 to R111). -/
def idleStep (b : Byte) (s : State) : State :=
  match s.mode with
  | .undetermined =>
    if b = s.cfg.signOn then firstByteB b { s with mode := .protocolB }
    else if b = Config.start then firstByteA b { s with mode := .protocolA }
    else headerError s
  | .protocolA => firstByteA b s
  | .protocolB => firstByteB b s

/-- What follows the byte intake: the target test and the state dispatch (R103, R104). Complete never gets here (R101). -/
def afterIntake (b : Byte) (s : State) : State :=
  if s.bytesRead < s.bytesWanted then incomplete s
  else match s.state with
    | .idle => idleStep b s
    | .readingHeader => headerStep s
    | .readingBody => bodyComplete s
    | .complete => incomplete s

/-- POLL after the check that comes before every operation (R100, R101). -/
def pollBody (rxValid : Bool) (b : Byte) (s : State) : Host.Outcome State Fault Refusal :=
  if s.state = .complete ∨ rxValid = false then .next (answer (pollWord false .incomplete) s)
  else presentByte b (afterIntake b) s

/-- POLL (40_frame_state_machine.md R100). -/
def execPoll (rxValid : Bool) (rxData : Byte) (s : State) : Host.Outcome State Fault Refusal :=
  operation s (pollBody rxValid rxData)

end Sys2Proof.Machine
end

