-- ==== Sys2Proof/WellFormed.lean ====
section
/-! DEFINITION. Which instructions are well formed: the conditions each row of spec/opcode_table.json puts on its own bits,
under a configuration (the OPEN parameters decide which bytes some rows match). -/

namespace Sys2Proof

/-- A byte that is an extended code (40_frame_state_machine.md R109). -/
def isExtended (c : Cfg) (b : Byte) : Bool := decide (b = c.ext0) || decide (b = c.ext1)

/-- A byte whose ProtocolB length resolves to at least 1 (40_frame_state_machine.md R109, R110). -/
def isResolved (c : Cfg) (b : Byte) : Bool :=
  match resolveLength c b with
  | none => false
  | some l => decide (l ≠ 0)

/-- The match column of the row each constructor stands for. RX_A_TOKEN's row also covers every other byte value at its
position ("Any other value: HeaderError"), and RX_A_LENGTH's every length. -/
def Instr.wf (c : Cfg) : Instr → Bool
  | .poll _ _ => true
  | .ensure _ => true
  | .send _ _ => true
  | .bufRd _ => true
  | .bufWr _ _ => true
  | .getSize => true
  | .reservedOp67 _ => true
  | .reservedOp815 _ => true
  | .reservedBits w => decide (w &&& reservedMask (opOf w) ≠ 0)
  | .reset => true
  | .rxDetectSignOn b => decide (b = c.signOn)
  | .rxDetectStart b => decide (b = Config.start)
  | .rxDetectFail b => decide (b ≠ c.signOn) && decide (b ≠ Config.start)
  | .rxAStart b => decide (b = Config.start)
  | .rxABadStart b => decide (b ≠ Config.start)
  | .rxAToken _ => true
  | .rxALength _ => true
  | .rxBExt b => isExtended c b
  | .rxBTable b => !isExtended c b && isResolved c b
  | .rxBUnresolved b => !isExtended c b && !isResolved c b
  | .wireAFrame _ body _ => decide (body.length < 2 ^ 16)
  | .wireBFrame code params => decide ((resolveLength c code).map BitVec.toNat = some (params.length + 1))

/-- The format column of the row: the context in which a received byte or a frame is that row. Request words and the reset
pulse are read alike in every context. -/
def Instr.inContext (x : RxContext) : Instr → Bool
  | .poll _ _ => true
  | .ensure _ => true
  | .send _ _ => true
  | .bufRd _ => true
  | .bufWr _ _ => true
  | .getSize => true
  | .reservedOp67 _ => true
  | .reservedOp815 _ => true
  | .reservedBits _ => true
  | .reset => true
  | .rxDetectSignOn _ => decide (x.state = .idle) && decide (x.mode = .undetermined)
  | .rxDetectStart _ => decide (x.state = .idle) && decide (x.mode = .undetermined)
  | .rxDetectFail _ => decide (x.state = .idle) && decide (x.mode = .undetermined)
  | .rxAStart _ => decide (x.state = .idle) && decide (x.mode = .protocolA)
  | .rxABadStart _ => decide (x.state = .idle) && decide (x.mode = .protocolA)
  | .rxAToken _ => decide (x.state = .readingHeader) && decide (x.bytesRead = 4)
  | .rxALength _ => decide (x.state = .readingHeader) && decide (x.bytesRead = 4)
  | .rxBExt _ => decide (x.state = .idle) && decide (x.mode = .protocolB)
  | .rxBTable _ => decide (x.state = .idle) && decide (x.mode = .protocolB)
  | .rxBUnresolved _ => decide (x.state = .idle) && decide (x.mode = .protocolB)
  | .wireAFrame _ _ _ => decide (x.state = .idle) && decide (x.mode ≠ .protocolB)
  | .wireBFrame code _ =>
    decide (x.state = .idle) &&
      (decide (x.mode = .protocolB) || (decide (x.mode = .undetermined) && decide (code = x.cfg.signOn)))

end Sys2Proof
end

