-- ==== Sys2Proof/Machine/RxRows.lean ====
section
/-! DEFINITION. The rows of the received-byte map (30_encoding.md R82) and of the header checks, as instructions: each is the
POLL that presents its byte (log 8). Where the row's context and match hold, it has the row's own effect, written here from
the row; a byte presented in any other context is what POLL makes of it. -/

namespace Sys2Proof.Machine

/-- The POLL that presents `b`, with the effect `row` where `i` is the row that `b` is. -/
def rxRow (i : Instr) (b : Byte) (row : State → State) (s : State) : Host.Outcome State Fault Refusal :=
  operation s fun s =>
    if i.wf s.cfg && i.inContext (context s) then presentByte b row s else pollBody true b s

/-- RX_DETECT_SIGN_ON (40_frame_state_machine.md R106): the mode becomes ProtocolB, then as the RX_B rows. -/
def execRxDetectSignOn (b : Byte) (s : State) : Host.Outcome State Fault Refusal :=
  rxRow (.rxDetectSignOn b) b (fun s => firstByteB b { s with mode := .protocolB }) s

/-- RX_DETECT_START (R106): the mode becomes ProtocolA, then as RX_A_START. -/
def execRxDetectStart (b : Byte) (s : State) : Host.Outcome State Fault Refusal :=
  rxRow (.rxDetectStart b) b
    (fun s => incomplete (await .readingHeader 5 { s with mode := .protocolA })) s

/-- RX_DETECT_FAIL (R107): HeaderError, and the mode stays Undetermined. -/
def execRxDetectFail (b : Byte) (s : State) : Host.Outcome State Fault Refusal :=
  rxRow (.rxDetectFail b) b headerError s

/-- RX_A_START (R108): ReadingHeader, five bytes wanted. -/
def execRxAStart (b : Byte) (s : State) : Host.Outcome State Fault Refusal :=
  rxRow (.rxAStart b) b (fun s => incomplete (await .readingHeader 5 s)) s

/-- RX_A_BAD_START (R108): HeaderError. -/
def execRxABadStart (b : Byte) (s : State) : Host.Outcome State Fault Refusal :=
  rxRow (.rxABadStart b) b headerError s

/-- RX_A_TOKEN (R112): any value but TOKEN is a HeaderError; then the length check of R113. -/
def execRxAToken (b : Byte) (s : State) : Host.Outcome State Fault Refusal :=
  rxRow (.rxAToken b) b (fun s => if b = Config.token then lengthStep s else headerError s) s

/-- RX_A_LENGTH (R113): the verdict on header bytes 2 and 3, given in the POLL that presents the token. The row is that POLL
where these bytes hold `len` (log 9). -/
def execRxALength (len : Half) (s : State) : Host.Outcome State Fault Refusal :=
  operation s fun s =>
    if (Instr.rxALength len).inContext (context s) && decide (headerLength s = len) then
      presentByte Config.token
        (fun s => if s.cfg.maxBody < len then headerError s else
          incomplete { s with seq := headerSeq s, bytesRead := 0, bytesWanted := len + 1, state := .readingBody }) s
    else pollBody true Config.token s

/-- RX_B_EXT (R109, R110): a frame of two bytes, for now. -/
def execRxBExt (b : Byte) (s : State) : Host.Outcome State Fault Refusal :=
  rxRow (.rxBExt b) b (fun s => incomplete (await .readingBody 2 s)) s

/-- RX_B_TABLE (R110, R111): a frame of the table's length. -/
def execRxBTable (b : Byte) (s : State) : Host.Outcome State Fault Refusal :=
  rxRow (.rxBTable b) b (fun s => enterBodyB ((resolveLength s.cfg b).getD 0) s) s

/-- RX_B_UNRESOLVED (R109): HeaderError. -/
def execRxBUnresolved (b : Byte) (s : State) : Host.Outcome State Fault Refusal :=
  rxRow (.rxBUnresolved b) b headerError s

end Sys2Proof.Machine
end

