-- ==== Sys2Proof/Machine/Wire.lean ====
section
/-! DEFINITION. Whole frames on the wire (30_encoding.md R78, R79): the POLLs that present a frame's bytes in order, which is
the expansion of FEED and FRAMEA (R85; log 10). -/

namespace Sys2Proof.Machine

/-- FEED (30_encoding.md R85): one POLL for each byte, in order. A POLL that finds the parser in Complete consumes nothing,
and so do the ones after it. -/
def feed : List Byte → State → Host.Outcome State Fault Refusal
  | [], s => .next s
  | b :: bs, s =>
    match pollBody true b (startOp s) with
    | .next t => feed bs t
    | .fault r => .fault r
    | .refused r => .refused r

/-- WIRE_A_FRAME (30_encoding.md R78): header, body and last byte. -/
def execWireAFrame (seq : Byte) (body : List Byte) (checksum : Byte) (s : State) : Host.Outcome State Fault Refusal :=
  operation s (feed (frameA seq body checksum))

/-- WIRE_B_FRAME (30_encoding.md R79): the code and the bytes after it. -/
def execWireBFrame (code : Byte) (params : List Byte) (s : State) : Host.Outcome State Fault Refusal :=
  operation s (feed (code :: params))

end Sys2Proof.Machine
end

