-- ==== Sys2Proof/Machine/Dispatch.lean ====
section
/-! DEFINITION. One arm for each instruction. -/

namespace Sys2Proof.Machine

def exec (i : Instr) (s : State) : Host.Outcome State Fault Refusal :=
  match i with
  | .poll rxValid rxData => Sys2Proof.Machine.execPoll rxValid rxData s
  | .ensure req => Sys2Proof.Machine.execEnsure req s
  | .send status size => Sys2Proof.Machine.execSend status size s
  | .bufRd addr => Sys2Proof.Machine.execBufRd addr s
  | .bufWr data addr => Sys2Proof.Machine.execBufWr data addr s
  | .getSize => Sys2Proof.Machine.execGetSize s
  | .reservedOp67 low => Sys2Proof.Machine.execReservedOp67 low s
  | .reservedOp815 low => Sys2Proof.Machine.execReservedOp815 low s
  | .reservedBits w => Sys2Proof.Machine.execReservedBits w s
  | .reset => Sys2Proof.Machine.execReset s
  | .rxDetectSignOn b => Sys2Proof.Machine.execRxDetectSignOn b s
  | .rxDetectStart b => Sys2Proof.Machine.execRxDetectStart b s
  | .rxDetectFail b => Sys2Proof.Machine.execRxDetectFail b s
  | .rxAStart b => Sys2Proof.Machine.execRxAStart b s
  | .rxABadStart b => Sys2Proof.Machine.execRxABadStart b s
  | .rxAToken b => Sys2Proof.Machine.execRxAToken b s
  | .rxALength len => Sys2Proof.Machine.execRxALength len s
  | .rxBExt b => Sys2Proof.Machine.execRxBExt b s
  | .rxBTable b => Sys2Proof.Machine.execRxBTable b s
  | .rxBUnresolved b => Sys2Proof.Machine.execRxBUnresolved b s
  | .wireAFrame seq body checksum => Sys2Proof.Machine.execWireAFrame seq body checksum s
  | .wireBFrame code params => Sys2Proof.Machine.execWireBFrame code params s

end Sys2Proof.Machine
end

