-- ==== Sys2Proof/Machine/Fetch.lean ====
section
/-! DEFINITION. Taking the next input from the port (30_encoding.md R70, 60_exceptions.md R208), and offering again what a
POLL did not consume (20_memory.md R51; log 7). -/

namespace Sys2Proof.Machine

/-- Takes the port to `p`. -/
def withPort (p : List Input) (s : State) : State := { s with port := p }

/-- The received bytes that an input offers, in stream order (20_memory.md R51): none for a request of the client and for the
reset pulse. The POLL of `rxLength` presents the token (log 9). -/
def offeredBy : Input → List Byte
  | .request _ => []
  | .reset => []
  | .rxByte b => [b]
  | .rxLength _ => [Config.token]
  | .wire bs => bs

/-- The part of the receive stream that the transport still offers through a port. -/
def offered : List Input → List Byte
  | [] => []
  | inp :: rest => offeredBy inp ++ offered rest

/-- An input of the client: a request word or a reset pulse. The other inputs are the transport's. -/
def fromClient : Input → Bool
  | .request _ => true
  | .reset => true
  | .rxByte _ => false
  | .rxLength _ => false
  | .wire _ => false

/-- What is left of an input of which `n` bytes were consumed; none where nothing is left to offer. -/
def leftOf (n : Nat) : Input → Option Input
  | .request _ => none
  | .reset => none
  | .rxByte b => if n = 0 then some (.rxByte b) else none
  | .rxLength len => if n = 0 then some (.rxLength len) else none
  | .wire bs => if bs.length ≤ n then none else some (.wire (bs.drop n))

/-- The client's next input in a port, and the port without it. -/
def nextOfClient : List Input → Option (Input × List Input)
  | [] => none
  | inp :: rest =>
    if fromClient inp then some (inp, rest)
    else (nextOfClient rest).map fun p => (p.1, inp :: p.2)

/-- Offers again an input of which a POLL consumed nothing (the parser is in Complete): ahead of every other received byte, and
after the client's next input, which alone can end that. -/
def offerAgain (inp : Input) (port : List Input) : List Input :=
  match nextOfClient port with
  | none => inp :: port
  | some (c, p) => c :: inp :: p

/-- The port after `n` bytes of an input were consumed, with `port` behind it: the transport advances by exactly these
(30_encoding.md R77, the spec's decision D18). -/
def portAfter (inp : Input) (n : Nat) (port : List Input) : List Input :=
  match leftOf n inp with
  | none => port
  | some left => if n = 0 then offerAgain left port else left :: port

/-- The outcome of an input's operation, begun in `s`, with the bytes it did not consume left in the port. -/
def settle (inp : Input) (s : State) (o : Host.Outcome State Fault Refusal) : Host.Outcome State Fault Refusal :=
  match o with
  | .next t => .next (withPort (portAfter inp (t.rxStream.length - s.rxStream.length) t.port) t)
  | .fault r => .fault r
  | .refused r => .refused r

/-- The operation that an input which is no frame begins with: for a burst the row that its first byte is, alone (every byte
value is legal in every position, 30_encoding.md R83). An empty burst presents no byte. -/
def firstOfBurst (x : RxContext) : Input → Instr
  | .wire (b :: _) => decodeRxByte x b
  | .wire [] => .poll false 0
  | .request _ => .poll false 0
  | .reset => .poll false 0
  | .rxByte _ => .poll false 0
  | .rxLength _ => .poll false 0

/-- The operation that an input presents in a context. -/
def operationOf (x : RxContext) (inp : Input) : Instr :=
  match decodeInput x inp with
  | .ok i => i
  | .error _ => firstOfBurst x inp

/-- The next operation, the input that presents it, and the port behind it; none where nothing is presented. -/
def fetch (s : State) : Option (Instr × Input × List Input) :=
  match s.port with
  | [] => none
  | inp :: rest => some (operationOf (context s) inp, inp, rest)

/-- With nothing presented the block holds its context unchanged (60_exceptions.md R215, 70_reset_and_hazards.md R233). -/
def waitForInput (s : State) : Host.Outcome State Fault Refusal := ifReady s (.next s)

end Sys2Proof.Machine
end

