-- ==== Sys2Proof/Machine/Step.lean ====
section
/-! DEFINITION. One step: the next input is taken from the port and its operation is run, as one atomic step
(00_scope.md R14); received bytes that it does not consume stay in the port (20_memory.md R51). -/

namespace Sys2Proof.Machine

/-- One step of the block. -/
def step (s : State) : Host.Outcome State Fault Refusal :=
  match fetch s with
  | none => waitForInput s
  | some (i, inp, rest) => settle inp s (exec i (withPort rest s))

/-- The state in which a row's bits are the next input. -/
def State.withFetchWord (s : State) (nbits w : Nat) : State := withPort (tableInput nbits w :: s.port) s

end Sys2Proof.Machine
end

