-- ==== Sys2Proof/Machine/Asm.lean ====
section
/-! DEFINITION. The notation for operation sequences (30_encoding.md R84) and its pseudo-operations (R85): what each line
presents to the block. -/

namespace Sys2Proof.Machine

/-- One line of an operation sequence (30_encoding.md R84, R85). -/
inductive AsmLine where
  | poll (b : Byte)
  | pollNone
  | ensure (n : Half)
  | send (s : Byte) (n : Half)
  | bufRd (a : Half)
  | bufWr (a : Half) (d : Byte)
  | getSize
  | reset
  | feed (bs : List Byte)
  | frameA (q : Byte) (ds : List Byte)
deriving DecidableEq, Repr

/-- What a line presents, in order (30_encoding.md R84; FEED and FRAMEA expand as R85 says). -/
def assemble : AsmLine → List Input
  | .poll b => [.request (pollRequest true b)]
  | .pollNone => [.request 0]
  | .ensure n => [.request (ensureRequest n)]
  | .send s n => [.request (sendRequest s n)]
  | .bufRd a => [.request (bufRdRequest a)]
  | .bufWr a d => [.request (bufWrRequest d a)]
  | .getSize => [.request getSizeRequest]
  | .reset => [.reset]
  | .feed bs => bs.map fun b => .request (pollRequest true b)
  | .frameA q ds => (Sys2Proof.frameA q ds (checksumA q ds)).map fun b => .request (pollRequest true b)

end Sys2Proof.Machine
end

