-- ==== Sys2Proof/Machine/Transport.lean ====
section
/-! DEFINITION. The transport adapter's contract at the block's boundary (20_memory.md R51, 30_encoding.md R72, R77): which
POLL request it presents for a receive stream, and what is left of the stream after the result. -/

namespace Sys2Proof.Machine

/-- The POLL request for the head of the receive stream, or for no byte (30_encoding.md R72). -/
def presentHead : List Byte → Word
  | [] => pollRequest false 0
  | b :: _ => pollRequest true b

/-- The receive stream after a POLL with that result: the head is taken off exactly when rx_consume = 1, else the same byte is
offered again (30_encoding.md R77). -/
def advance (result : Option Word) (stream : List Byte) : List Byte :=
  match result with
  | some w => if consumedBit w then stream.tail else stream
  | none => stream

end Sys2Proof.Machine
end

