-- ==== Sys2Proof/Safety.lean ====
section
/-! DEFINITION. What claims are stated in: which states an operation can run in, the invariants of the context
(10_state.md R34), and what an operation returned. -/

namespace Sys2Proof.Machine

/-- The block can run an operation: the configuration is well formed (00_scope.md R9) and no model fault is recorded
(60_exceptions.md R206). -/
def Ready (s : State) : Prop := s.cfg.wf = true ∧ s.fault = none

/-- The invariants V1 to V8 of 10_state.md R34, that the configuration is well formed, that the frame buffer is in canonical
form inside its CAP bytes, and that an idle parser has consumed no byte since the last reset. -/
structure Inv (s : State) : Prop where
  cfgOk : s.cfg.wf = true
  v1 : s.bytesRead ≤ s.bytesWanted ∧ s.bytesWanted.toNat ≤ s.cfg.cap
  v2 : s.state = .idle → s.bytesRead = 0 ∧ s.bytesWanted = 1 ∧ s.cksum = 0
  v3 : s.mode = .undetermined → s.state = .idle
  v4 : s.state = .readingHeader →
    s.mode = .protocolA ∧ s.bytesWanted = 5 ∧ 1 ≤ s.bytesRead ∧ s.bytesRead ≤ 4 ∧ bufByte s 0 = Config.start
  v5 : s.state = .readingBody → s.mode ≠ .undetermined ∧ s.bytesRead < s.bytesWanted
  v6 : s.state = .complete →
    s.mode ≠ .undetermined ∧ 1 ≤ s.bytesRead ∧ s.bytesRead = s.bytesWanted ∧ s.bodySize = s.bytesRead - 1 ∧
      (s.mode = .protocolA → s.cksum = 0)
  v7 : s.mode = .protocolA → s.state ≠ .idle → s.cksum = xorAll s.rxFrame
  v8 : s.mode.code ≠ 3
  frameIdle : s.state = .idle → s.rxFrame = []
  bufForm : Memory.wf s.draws s.buf = true
  bufBelow : Memory.below s.cfg.cap s.buf = true

/-- From `s` to `t` exactly one frame-buffer byte was stored: index `i` holds `v`, every other index reads as before. -/
def StoresByte (s t : State) (i : Nat) (v : Byte) : Prop := ∀ j, bufByte t j = if j = i then v else bufByte s j

/-- The received byte that an instruction presents to one POLL: a POLL's own, that of a row of the received-byte map, and the
token of RX_A_LENGTH (log 8, log 9). -/
def presented : Instr → Option Byte
  | .poll v b => if v then some b else none
  | .ensure _ => none
  | .send _ _ => none
  | .bufRd _ => none
  | .bufWr _ _ => none
  | .getSize => none
  | .reservedOp67 _ => none
  | .reservedOp815 _ => none
  | .reservedBits _ => none
  | .reset => none
  | .rxDetectSignOn b => some b
  | .rxDetectStart b => some b
  | .rxDetectFail b => some b
  | .rxAStart b => some b
  | .rxABadStart b => some b
  | .rxAToken b => some b
  | .rxALength _ => some Config.token
  | .rxBExt b => some b
  | .rxBTable b => some b
  | .rxBUnresolved b => some b
  | .wireAFrame _ _ _ => none
  | .wireBFrame _ _ => none

/-- The POLLs that present the bytes of a sequence in order, each an operation of its own (30_encoding.md R85 FEED). -/
def pollAll : List Byte → State → Host.Outcome State Fault Refusal
  | [], s => .next s
  | b :: bs, s =>
    match exec (.poll true b) s with
    | .next t => pollAll bs t
    | .fault r => .fault r
    | .refused r => .refused r

end Sys2Proof.Machine
end

