-- ==== Sys2Proof/Certificates/Slice0/Obligations.lean ====
section
/-! DEFINITION. The statements for the provers. Result words are written with `pollWord`, `okWord`, `byteWord` and
`sizeWord`, whose layout (the spec's decision D3) `ResultWordLayout` states. Where a frame-buffer byte is stored, the next
state is written with its own `buf`, and a clause beside it says what every index reads; that the index is `bytesRead` is an
inference the spec marks as its own (40_frame_state_machine.md R102). Wherever a reset leaves `bytesWanted` at 1, that value is
the spec's decision D5. -/

open Sys2Proof Sys2Proof.Machine

/-! ### Encodings -/

/-- Request words written out from 30_encoding.md R71 and R84 and from the vectors of 95_test_vectors.md. -/
def Obligations.RequestWordsOfTheSpec : Prop :=
  decodeWord 0x0000011B = .poll true 0x1B ∧
  decodeWord 0x000000AB = .poll false 0xAB ∧
  decodeWord 0x1000011A = .ensure 282 ∧
  decodeWord 0x20100002 = .send 0x10 2 ∧
  decodeWord 0x30000118 = .bufRd 280 ∧
  decodeWord 0x40990002 = .bufWr 0x99 2 ∧
  decodeWord 0x50000000 = .getSize ∧
  decodeWord 0x60000000 = .reservedOp67 0 ∧
  decodeWord 0xF0000000 = .reservedOp815 0x70000000 ∧
  decodeWord 0x00000200 = .reservedBits 0x00000200 ∧
  decodeWord 0x50000001 = .reservedBits 0x50000001

/-- Decoding what the encoder writes gives the instruction back: for every well-formed instruction in a context in which the
opcode table has it, under every well-formed configuration. -/
def Obligations.DecodeOfEncode : Prop :=
  ∀ (x : RxContext) (i : Instr), x.cfg.wf = true → i.wf x.cfg = true → i.inContext x = true →
    decodeInput x (encode i) = .ok i

/-- Every request word has one meaning: the instruction it decodes to is well formed and encodes to that word. -/
def Obligations.EncodeOfDecodedWord : Prop :=
  ∀ (x : RxContext) (w : Word), (decodeWord w).wf x.cfg = true ∧ encode (decodeWord w) = .request w

/-- The received-byte map is a partition (30_encoding.md R82): in every context a byte is one well-formed row of it that
stands in that context and carries that byte, or no special byte at all. -/
def Obligations.ReceivedByteMapIsTotal : Prop :=
  ∀ (x : RxContext) (b : Byte), x.cfg.wf = true →
    (decodeRxByte x b).wf x.cfg = true ∧ (decodeRxByte x b).inContext x = true ∧
      (encode (decodeRxByte x b) = .rxByte b ∨
        (decodeRxByte x b = .poll true b ∧ x.state ≠ .idle ∧ ¬(x.state = .readingHeader ∧ x.bytesRead = 4)))

/-- A burst read as a frame has exactly the frame's bytes, and the frame is well formed. -/
def Obligations.EncodeOfDecodedFrame : Prop :=
  ∀ (x : RxContext) (bs : List Byte) (i : Instr), decodeInput x (.wire bs) = .ok i →
    i.wf x.cfg = true ∧ encode i = .wire bs

/-- The fields of the result words (30_encoding.md R75, R76; the spec's decision D3). -/
def Obligations.ResultWordLayout : Prop :=
  (∀ (consume : Bool) (k : PollKind),
    (pollWord consume k).getLsbD 10 = consume ∧
    (pollWord consume k).extractLsb' 8 2 = (match k with
      | .incomplete => 0#2 | .headerError => 1#2 | .checksumError => 2#2 | .command _ => 3#2) ∧
    (pollWord consume k).extractLsb' 0 8 = (match k with
      | .command c => c | .incomplete => 0#8 | .headerError => 0#8 | .checksumError => 0#8) ∧
    (pollWord consume k).extractLsb' 11 21 = 0#21) ∧
  okWord true = 1#32 ∧ okWord false = 0#32 ∧
  (∀ b : Byte, (byteWord b).toNat = b.toNat) ∧
  (∀ n : Half, (sizeWord n).toNat = n.toNat)

/-! ### Reset -/

/-- What power-up leaves, under every configuration (70_reset_and_hazards.md R232). The draws `seq`, `bodySize` and `buf` are
left out: the spec states no value for them. -/
def Obligations.PowerUpState : Prop :=
  (∀ c : Cfg, (State.powerUp c).cfg = c ∧ (State.powerUp c).mode = .undetermined ∧ (State.powerUp c).state = .idle ∧
    (State.powerUp c).bytesRead = 0 ∧ (State.powerUp c).bytesWanted = 1 ∧ (State.powerUp c).cksum = 0 ∧
    (State.powerUp c).fault = none ∧ (State.powerUp c).txLast = []) ∧
  State.reset = State.powerUp Config.tc

/-- The invariant holds at power-up, under every well-formed configuration, and so at State.reset. -/
def Obligations.PowerUpMeetsInvariant : Prop :=
  (∀ c : Cfg, c.wf = true → Inv (State.powerUp c)) ∧ Inv State.reset

/-- RESET completes in every ready state (70_reset_and_hazards.md R231, R232). What the draws leave in `seq`, `bodySize` and
the frame buffer is free (the spec's decision D6; log 4), and nothing is said of it but that no index is listed. -/
def Obligations.HardResetCompletes : Prop :=
  ∀ s : State, Ready s → ∃ t, exec .reset s = .next t ∧
    t = { s with
      mode := .undetermined, state := .idle, bytesRead := 0, bytesWanted := 1, cksum := 0
      seq := t.seq, bodySize := t.bodySize, buf := [], draws := s.draws + 1, rxFrame := [], txLast := [], result := none }

/-! ### The machine -/

/-- V1 to V8 (10_state.md R34) with the canonical form of the frame buffer: every step keeps them. -/
def Obligations.StepKeepsInvariant : Prop := ∀ s t : State, Inv s → step s = .next t → Inv t

/-- When an input decodes, a step takes it from the port and runs its instruction: exactly that for an input of the client, and
for one of the transport with the bytes that were not consumed left in the port (`settle`; log 7). With nothing in the port a
ready block holds its state. -/
def Obligations.StepRunsDecodedInstruction : Prop :=
  (∀ (s : State) (inp : Input) (rest : List Input) (i : Instr), s.port = inp :: rest →
    decodeInput (context s) inp = .ok i →
      step s = settle inp s (exec i { s with port := rest }) ∧
      (fromClient inp = true → step s = exec i { s with port := rest }) ∧
      (∀ t, exec i { s with port := rest } = .next t →
        t.rxStream.length = s.rxStream.length + (offeredBy inp).length → step s = .next t)) ∧
  (∀ s : State, s.port = [] → Ready s → step s = .next s)

/-- A burst of bytes that is no frame is taken a byte at a time: the operation is the row of its first byte, and the rest of the
burst stays at the head of the port when that byte is consumed (the model's choice: log 7). -/
def Obligations.BurstIsTakenByteByByte : Prop :=
  ∀ (s : State) (b : Byte) (bs : List Byte) (rest : List Input) (e : FrameError), s.port = .wire (b :: bs) :: rest →
    decodeInput (context s) (.wire (b :: bs)) = .error e →
    step s = settle (.wire (b :: bs)) s (exec (decodeRxByte (context s) b) { s with port := rest }) ∧
    (Inv s → s.fault = none → s.state ≠ .complete → ∃ t, exec (decodeRxByte (context s) b) { s with port := rest } = .next t ∧
      step s = .next { t with port := if bs = [] then rest else .wire bs :: rest })

/-- The block never loses a received byte it has not consumed, and the transport advances by exactly the consumed ones
(20_memory.md R51, 30_encoding.md R77): over every step, the bytes consumed followed by the bytes the port still offers stay
the same stream, but for a byte that a request of the client itself carries. -/
def Obligations.ReceivedBytesAreNeverLost : Prop :=
  ∀ s t : State, step s = .next t → (∀ w rest, s.port ≠ .request w :: rest) →
    t.rxStream ++ offered t.port = s.rxStream ++ offered s.port

/-- While a command is in flight, a received byte or burst is left for a later POLL (20_memory.md R51, 40_frame_state_machine.md
R101): the step returns Incomplete and consumes nothing, and the input is offered again, whole and ahead of every other received
byte, after the client's next input (that order is the model's choice: log 7). -/
def Obligations.UnconsumedInputIsOfferedAgain : Prop :=
  ∀ (s : State) (inp : Input) (rest : List Input), Ready s → s.state = .complete → s.port = inp :: rest →
    offeredBy inp ≠ [] →
    step s = .next { s with
      port := offerAgain inp rest, result := some (pollWord false .incomplete), txLast := [] } ∧
    offered (offerAgain inp rest) = offeredBy inp ++ offered rest ∧
    ((∀ c ∈ rest, fromClient c = false) → offerAgain inp rest = inp :: rest) ∧
    (∀ pre c post, rest = pre ++ c :: post → (∀ x ∈ pre, fromClient x = false) → fromClient c = true →
      offerAgain inp rest = c :: inp :: (pre ++ post))

/-- Once a model fault is recorded, no operation, no hard reset and no waiting has a step (60_exceptions.md R206). -/
def Obligations.RecordedFaultIsPermanent : Prop :=
  ∀ (s : State) (f : FaultRecord), s.fault = some f →
    (∀ i t, exec i s ≠ .next t) ∧ (∀ t, step s ≠ .next t) ∧
    (s.cfg.wf = true → (∀ i, exec i s = .fault (.stuck f.reason)) ∧ step s = .fault (.stuck f.reason))

/-- A configuration that breaks W1 to W6 is refused (00_scope.md R9). -/
def Obligations.IllFormedConfigIsRefused : Prop :=
  ∀ s : State, s.cfg.wf = false →
    (∀ i, exec i s = .refused .illFormedConfig) ∧ step s = .refused .illFormedConfig

/-- From every state that meets the invariant and holds no fault, every instruction and every step has a next state: nothing
stops but for a recorded fault (60_exceptions.md R200, R205). -/
def Obligations.ReadyBlockNeverStops : Prop :=
  ∀ s : State, Inv s → s.fault = none → (∀ i, ∃ t, exec i s = .next t) ∧ ∃ t, step s = .next t

/-- Whole-machine rules on what no operation touches: the configuration and the port; and the draws but for RESET. -/
def Obligations.ConfigurationIsConstant : Prop :=
  ∀ (i : Instr) (s t : State), exec i s = .next t →
    t.cfg = s.cfg ∧ t.port = s.port ∧ (i ≠ .reset → t.draws = s.draws)

/-- The mode is determined once (10_state.md R22; that rows are POLLs in and out of their context is the model's reading, log 8
and log 9, and that a frame is one instruction its choice, log 10): a hard reset returns it to Undetermined, and nothing else
changes it once it is selected. An operation that presents no byte does not change it at all; one that presents a byte (a POLL,
a row of the received-byte map) only in Idle and Undetermined, by the SIGN_ON or the START byte (40_frame_state_machine.md
R106); a frame on the wire only in Undetermined, by such a byte among its own. -/
def Obligations.ModeIsSticky : Prop :=
  ∀ (i : Instr) (s t : State), exec i s = .next t →
    (i = .reset → t.mode = .undetermined) ∧ (i ≠ .reset → s.mode ≠ .undetermined → t.mode = s.mode) ∧
    (∀ w, encode i = .request w → presented i = none → t.mode = s.mode) ∧
    (∀ b, presented i = some b → t.mode ≠ s.mode →
      s.state = .idle ∧ s.mode = .undetermined ∧
        ((b = s.cfg.signOn ∧ t.mode = .protocolB) ∨ (b = 0x1B ∧ t.mode = .protocolA))) ∧
    (∀ bs, encode i = .wire bs → t.mode ≠ s.mode →
      s.mode = .undetermined ∧
        ((s.cfg.signOn ∈ bs ∧ t.mode = .protocolB) ∨ (0x1B ∈ bs ∧ t.mode = .protocolA)))

/-- An operation that presents no received byte and is no hard reset leaves mode, seq, bodySize and the consumed receive stream
alone (10_state.md R22, R27, R28: only POLL writes them). -/
def Obligations.OnlyPollsWriteModeSeqAndBodySize : Prop :=
  ∀ (i : Instr) (s t : State), exec i s = .next t →
    (∃ d, i = .poll false d) ∨ (∃ r, i = .ensure r) ∨ (∃ st n, i = .send st n) ∨ (∃ a, i = .bufRd a) ∨
      (∃ d a, i = .bufWr d a) ∨ i = .getSize ∨ (∃ l, i = .reservedOp67 l) ∨ (∃ l, i = .reservedOp815 l) ∨
      (∃ w, i = .reservedBits w) →
    t.mode = s.mode ∧ t.seq = s.seq ∧ t.bodySize = s.bodySize ∧ t.rxStream = s.rxStream

/-- The transmit stream and the consumed receive stream only grow (20_memory.md R51, R52, R60). -/
def Obligations.StreamsOnlyGrow : Prop :=
  ∀ s t : State, step s = .next t → s.txStream <+: t.txStream ∧ s.rxStream <+: t.rxStream

/-- Only SEND and the checksum-error response transmit (20_memory.md R52): an operation on the command port that transmits is
a SEND, or a POLL that returns ChecksumError; what it transmits is appended to the stream. -/
def Obligations.OnlySendAndChecksumErrorTransmit : Prop :=
  ∀ (w : Word) (s t : State), exec (decodeWord w) s = .next t →
    t.txStream = s.txStream ++ t.txLast ∧
    (t.txLast ≠ [] → (∃ st n, decodeWord w = .send st n) ∨
      ((∃ b, decodeWord w = .poll true b) ∧ t.result = some (pollWord true .checksumError)))

/-- An operation that records a fault changes nothing else and transmits nothing, and it records the request word that raised
it; a POLL records none (60_exceptions.md R205). -/
def Obligations.FaultingOperationChangesNothingElse : Prop :=
  ∀ (i : Instr) (s t : State) (f : FaultRecord), exec i s = .next t → t.fault = some f →
    t = { s with fault := some f, result := none, txLast := [] } ∧ encode i = .request f.word ∧
      ∀ v b, i ≠ .poll v b

/-! ### POLL: prefix -/

/-- The early return (40_frame_state_machine.md R101). -/
def Obligations.PollEarlyReturnChangesNothing : Prop :=
  ∀ (s : State) (v : Bool) (b : Byte), Ready s → (s.state = .complete ∨ v = false) →
    exec (.poll v b) s = .next { s with result := some (pollWord false .incomplete), txLast := [] }

/-- A byte that does not reach the target is taken in and counted, and nothing else happens (40_frame_state_machine.md R102,
R103). -/
def Obligations.PollBelowTargetTakesByte : Prop :=
  ∀ (s : State) (b : Byte), Inv s → s.fault = none → s.state ≠ .complete → s.bytesRead + 1 < s.bytesWanted →
    ∃ t, exec (.poll true b) s = .next t ∧ StoresByte s t s.bytesRead.toNat b ∧
      t = { s with
        cksum := s.cksum ^^^ b, buf := t.buf, bytesRead := s.bytesRead + 1
        rxStream := s.rxStream ++ [b], rxFrame := s.rxFrame ++ [b]
        result := some (pollWord true .incomplete), txLast := [] }

/-- A POLL consumes the presented byte exactly when its result says so, and never more than that byte; its result is one of
the four kinds (60_exceptions.md R200, 30_encoding.md R77, 70_reset_and_hazards.md R236). -/
def Obligations.PollConsumesAtMostOneByte : Prop :=
  ∀ (s t : State) (v : Bool) (b : Byte), exec (.poll v b) s = .next t →
    ∃ (consume : Bool) (k : PollKind), t.result = some (pollWord consume k) ∧
      t.rxStream = s.rxStream ++ (if consume then [b] else []) ∧
      (consume = true ↔ s.state ≠ .complete ∧ v = true)

/-- Every HeaderError outcome soft-resets, transmits nothing and keeps seq, bodySize and every buffer byte but the one the
POLL stored; the mode is kept too, but for the SIGN_ON byte that selects ProtocolB in the same POLL
(40_frame_state_machine.md R119, R109). -/
def Obligations.HeaderErrorIsSilent : Prop :=
  ∀ (s t : State) (b : Byte), Inv s → exec (.poll true b) s = .next t → t.result = some (pollWord true .headerError) →
    StoresByte s t s.bytesRead.toNat b ∧ (t.mode = s.mode ∨ (s.mode = .undetermined ∧ b = s.cfg.signOn ∧ t.mode = .protocolB)) ∧
    t = { s with
      mode := t.mode, state := .idle, bytesRead := 0, bytesWanted := 1, cksum := 0, buf := t.buf
      rxStream := s.rxStream ++ [b], rxFrame := [], result := some (pollWord true .headerError), txLast := [] }

/-! ### POLL: the first byte -/

/-- Detection failure (40_frame_state_machine.md R107), as POLL and as RX_DETECT_FAIL. -/
def Obligations.DetectionFailure : Prop :=
  ∀ (s : State) (b : Byte) (i : Instr), Inv s → s.fault = none → s.mode = .undetermined →
    b ≠ s.cfg.signOn → b ≠ 0x1B → (i = .poll true b ∨ i = .rxDetectFail b) →
    ∃ t, exec i s = .next t ∧ StoresByte s t 0 b ∧
      t = { s with
        mode := .undetermined, state := .idle, bytesRead := 0, bytesWanted := 1, cksum := 0, buf := t.buf
        rxStream := s.rxStream ++ [b], rxFrame := [], result := some (pollWord true .headerError), txLast := [] }

/-- The START byte selects ProtocolA and opens a header in the same POLL (40_frame_state_machine.md R106, R108), as POLL and as
RX_DETECT_START. -/
def Obligations.StartByteSelectsProtocolA : Prop :=
  ∀ (s : State) (i : Instr), Inv s → s.fault = none → s.mode = .undetermined →
    (i = .poll true 0x1B ∨ i = .rxDetectStart 0x1B) →
    ∃ t, exec i s = .next t ∧ StoresByte s t 0 0x1B ∧
      t = { s with
        mode := .protocolA, state := .readingHeader, bytesRead := 1, bytesWanted := 5, cksum := 0x1B, buf := t.buf
        rxStream := s.rxStream ++ [0x1B], rxFrame := [0x1B], result := some (pollWord true .incomplete), txLast := [] }

/-- The SIGN_ON byte selects ProtocolB and is then handled, in the same POLL, as that protocol's first byte
(40_frame_state_machine.md R106), as POLL and as RX_DETECT_SIGN_ON. -/
def Obligations.SignOnByteSelectsProtocolB : Prop :=
  ∀ (s : State) (b : Byte) (i : Instr), Inv s → s.fault = none → s.mode = .undetermined → b = s.cfg.signOn →
    (i = .poll true b ∨ i = .rxDetectSignOn b) →
    ∃ t, exec i s = .next t ∧ t.mode = .protocolB ∧ exec (.poll true b) { s with mode := .protocolB } = .next t

/-- The first byte in ProtocolA: the start check, and the step to the header (40_frame_state_machine.md R108), as POLL, as
RX_A_START and as RX_A_BAD_START. -/
def Obligations.FirstByteOfProtocolA : Prop :=
  ∀ (s : State) (b : Byte) (i : Instr), Inv s → s.fault = none → s.state = .idle → s.mode = .protocolA →
    (i = .poll true b ∨ (b = 0x1B ∧ i = .rxAStart b) ∨ (b ≠ 0x1B ∧ i = .rxABadStart b)) →
    ∃ t, exec i s = .next t ∧ StoresByte s t 0 b ∧
      t = if b = 0x1B then
          { s with
            state := .readingHeader, bytesRead := 1, bytesWanted := 5, cksum := 0x1B, buf := t.buf
            rxStream := s.rxStream ++ [b], rxFrame := [b], result := some (pollWord true .incomplete), txLast := [] }
        else
          { s with
            state := .idle, bytesRead := 0, bytesWanted := 1, cksum := 0, buf := t.buf
            rxStream := s.rxStream ++ [b], rxFrame := [], result := some (pollWord true .headerError), txLast := [] }

/-- An extended code in ProtocolB waits for one more byte (40_frame_state_machine.md R109, R110; that it is tested before the
table is the spec's decision D8), as POLL and as RX_B_EXT. -/
def Obligations.ExtendedCodeWaitsForOneMoreByte : Prop :=
  ∀ (s : State) (b : Byte) (i : Instr), Inv s → s.fault = none → s.state = .idle → s.mode = .protocolB →
    (b = s.cfg.ext0 ∨ b = s.cfg.ext1) → (i = .poll true b ∨ i = .rxBExt b) →
    ∃ t, exec i s = .next t ∧ StoresByte s t 0 b ∧
      t = { s with
        state := .readingBody, bytesRead := 1, bytesWanted := 2, cksum := b, buf := t.buf
        rxStream := s.rxStream ++ [b], rxFrame := [b], result := some (pollWord true .incomplete), txLast := [] }

/-- A fixed-length code in ProtocolB takes its table length; with length 1 it completes in the same POLL
(40_frame_state_machine.md R109 to R111), as POLL and as RX_B_TABLE. -/
def Obligations.TableCodeTakesItsLength : Prop :=
  ∀ (s : State) (b l : Byte) (i : Instr), Inv s → s.fault = none → s.state = .idle → s.mode = .protocolB →
    b ≠ s.cfg.ext0 → b ≠ s.cfg.ext1 → s.cfg.tblBase.toNat ≤ b.toNat →
    s.cfg.cmdLen[b.toNat - s.cfg.tblBase.toNat]? = some l → l ≠ 0 → (i = .poll true b ∨ i = .rxBTable b) →
    ∃ t, exec i s = .next t ∧ StoresByte s t 0 b ∧
      t = if l = 1 then
          { s with
            state := .complete, bytesRead := 1, bytesWanted := 1, cksum := b, buf := t.buf, bodySize := 0
            rxStream := s.rxStream ++ [b], rxFrame := [b], result := some (pollWord true (.command b)), txLast := [] }
        else
          { s with
            state := .readingBody, bytesRead := 1, bytesWanted := l.setWidth 16, cksum := b, buf := t.buf
            rxStream := s.rxStream ++ [b], rxFrame := [b], result := some (pollWord true .incomplete), txLast := [] }

/-- A code in ProtocolB that is not extended and is outside the table, or whose entry is 0, is a header error
(40_frame_state_machine.md R109), as POLL and as RX_B_UNRESOLVED. -/
def Obligations.UnresolvedCodeIsHeaderError : Prop :=
  ∀ (s : State) (b : Byte) (i : Instr), Inv s → s.fault = none → s.state = .idle → s.mode = .protocolB →
    b ≠ s.cfg.ext0 → b ≠ s.cfg.ext1 →
    (b.toNat < s.cfg.tblBase.toNat ∨ s.cfg.tblBase.toNat + s.cfg.tblSize ≤ b.toNat ∨
      s.cfg.cmdLen[b.toNat - s.cfg.tblBase.toNat]? = some 0) →
    (i = .poll true b ∨ i = .rxBUnresolved b) →
    ∃ t, exec i s = .next t ∧ StoresByte s t 0 b ∧
      t = { s with
        state := .idle, bytesRead := 0, bytesWanted := 1, cksum := 0, buf := t.buf
        rxStream := s.rxStream ++ [b], rxFrame := [], result := some (pollWord true .headerError), txLast := [] }

/-! ### POLL: the header -/

/-- A wrong token is a header error (40_frame_state_machine.md R112), as POLL and as RX_A_TOKEN. -/
def Obligations.WrongTokenIsHeaderError : Prop :=
  ∀ (s : State) (b : Byte) (i : Instr), Inv s → s.fault = none → s.state = .readingHeader → s.bytesRead = 4 →
    b ≠ 0x0E → (i = .poll true b ∨ i = .rxAToken b) →
    ∃ t, exec i s = .next t ∧ StoresByte s t 4 b ∧
      t = { s with
        state := .idle, bytesRead := 0, bytesWanted := 1, cksum := 0, buf := t.buf
        rxStream := s.rxStream ++ [b], rxFrame := [], result := some (pollWord true .headerError), txLast := [] }

/-- After a right token, a big-endian length above MAX_BODY is a header error (40_frame_state_machine.md R113), and any other
is accepted: seq is captured, the body begins at index 0 and wants one byte more than the length, and cksum is carried on
(R114). As POLL, as RX_A_TOKEN and as RX_A_LENGTH. -/
def Obligations.HeaderLengthVerdict : Prop :=
  ∀ (s : State) (len : Half) (i : Instr), Inv s → s.fault = none → s.state = .readingHeader → s.bytesRead = 4 →
    len.toNat = 256 * (bufByte s 2).toNat + (bufByte s 3).toNat →
    (i = .poll true 0x0E ∨ i = .rxAToken 0x0E ∨ i = .rxALength len) →
    ∃ t, exec i s = .next t ∧ StoresByte s t 4 0x0E ∧
      t = if s.cfg.maxBody.toNat < len.toNat then
          { s with
            state := .idle, bytesRead := 0, bytesWanted := 1, cksum := 0, buf := t.buf
            rxStream := s.rxStream ++ [0x0E], rxFrame := [], result := some (pollWord true .headerError), txLast := [] }
        else
          { s with
            seq := bufByte s 1, state := .readingBody, bytesRead := 0, bytesWanted := len + 1
            cksum := s.cksum ^^^ 0x0E, buf := t.buf, rxStream := s.rxStream ++ [0x0E], rxFrame := s.rxFrame ++ [0x0E]
            result := some (pollWord true .incomplete), txLast := [] }

/-! ### POLL: the body -/

/-- Completion (40_frame_state_machine.md R121): the last body byte, where ProtocolA's checksum comes out zero. -/
def Obligations.LastBodyByteCompletes : Prop :=
  ∀ (s : State) (b : Byte), Inv s → s.fault = none → s.state = .readingBody → s.bytesRead + 1 = s.bytesWanted →
    (s.mode = .protocolA → s.cksum ^^^ b = 0) →
    ∃ t, exec (.poll true b) s = .next t ∧ StoresByte s t s.bytesRead.toNat b ∧
      t = { s with
        state := .complete, bytesRead := s.bytesWanted, cksum := s.cksum ^^^ b, buf := t.buf, bodySize := s.bytesRead
        rxStream := s.rxStream ++ [b], rxFrame := s.rxFrame ++ [b]
        result := some (pollWord true (.command (bufByte t 0))), txLast := [] }

/-- The checksum verdict (40_frame_state_machine.md R117, 42_response_encoder.md R158; the size 2 is the spec's decision D9):
the eight-byte response goes out, and the parser is released with mode, seq and bodySize kept. -/
def Obligations.ChecksumErrorResponds : Prop :=
  ∀ (s : State) (b code : Byte), Inv s → s.fault = none → s.state = .readingBody → s.bytesRead + 1 = s.bytesWanted →
    s.mode = .protocolA → s.cksum ^^^ b ≠ 0 → code = (if s.bytesRead = 0 then b else bufByte s 0) →
    ∃ t, exec (.poll true b) s = .next t ∧
      (∀ j, bufByte t j = if j = 1 then s.cfg.cksumErrStatus else if j = s.bytesRead.toNat then b else bufByte s j) ∧
      t.txLast = [0x1B, s.seq, 0x00, 0x02, 0x0E, code, s.cfg.cksumErrStatus,
        0x1B ^^^ s.seq ^^^ 0x00 ^^^ 0x02 ^^^ 0x0E ^^^ code ^^^ s.cfg.cksumErrStatus] ∧
      t = { s with
        state := .idle, bytesRead := 0, bytesWanted := 1, cksum := 0, buf := t.buf
        rxStream := s.rxStream ++ [b], rxFrame := [], txStream := s.txStream ++ t.txLast, txLast := t.txLast
        result := some (pollWord true .checksumError) }

/-- Body bytes are stored and counted until the target is reached, and exactly the missing number of bytes is taken
(40_frame_state_machine.md R116, 41_length_negotiation.md R141): fewer leave the parser in ReadingBody, that many bring the
completion step. It completes the frame, but in ProtocolA only where everything XORs to zero; elsewhere it is a ChecksumError
(41_length_negotiation.md R147, of the bytes an ENSURE asked for). -/
def Obligations.BodyTakesExactlyTheMissingBytes : Prop :=
  ∀ (s : State) (bs : List Byte), Inv s → s.fault = none → s.state = .readingBody →
    s.bytesRead.toNat + bs.length ≤ s.bytesWanted.toNat →
    ∃ t, pollAll bs s = .next t ∧ t.rxStream = s.rxStream ++ bs ∧ t.mode = s.mode ∧ t.seq = s.seq ∧
      if s.bytesRead.toNat + bs.length = s.bytesWanted.toNat ∧ s.mode = .protocolA ∧ bs.foldl (· ^^^ ·) s.cksum ≠ 0 then
        t.state = .idle ∧ t.bytesRead = 0 ∧ t.bytesWanted = 1 ∧ t.cksum = 0 ∧ t.bodySize = s.bodySize ∧
          t.result = some (pollWord true .checksumError) ∧ t.txStream = s.txStream ++ t.txLast ∧ t.txLast.length = 8 ∧
          (∀ j, bufByte t j = if j = 1 then s.cfg.cksumErrStatus
            else if h : s.bytesRead.toNat ≤ j ∧ j - s.bytesRead.toNat < bs.length
              then bs[j - s.bytesRead.toNat]'h.2 else bufByte s j)
      else
        t.bytesRead.toNat = s.bytesRead.toNat + bs.length ∧ t.bytesWanted = s.bytesWanted ∧
          t.cksum = bs.foldl (· ^^^ ·) s.cksum ∧ t.txStream = s.txStream ∧
          (∀ j, bufByte t j = if h : s.bytesRead.toNat ≤ j ∧ j - s.bytesRead.toNat < bs.length
            then bs[j - s.bytesRead.toNat]'h.2 else bufByte s j) ∧
          (if s.bytesRead.toNat + bs.length = s.bytesWanted.toNat
            then t.state = .complete ∧ t.bodySize = s.bytesWanted - 1 ∧
              t.result = some (pollWord true (.command (bufByte t 0)))
            else t.state = .readingBody ∧ t.bodySize = s.bodySize)

/-- In ProtocolB the accumulator is written but never read (40_frame_state_machine.md R120): from two states that differ in
`cksum` alone, every instruction gives the same result, the same transmission and next states that differ in `cksum` at most. -/
def Obligations.ChecksumIsUnreadInProtocolB : Prop :=
  ∀ (i : Instr) (s t : State) (x : Byte), s.mode = .protocolB → exec i s = .next t →
    ∃ y, exec i { s with cksum := x } = .next { t with cksum := y }

/-! ### The rows as POLLs, and the adapter -/

/-- A row of the received-byte map, and RX_A_LENGTH for the length the header holds, is the POLL that presents its byte: in
every state that meets the invariant, in the row's context or out of it (the model's reading of the rows: log 8, log 9). -/
def Obligations.RowsArePolls : Prop :=
  ∀ (s : State) (b : Byte), Inv s →
    exec (.rxDetectSignOn b) s = exec (.poll true b) s ∧ exec (.rxDetectStart b) s = exec (.poll true b) s ∧
    exec (.rxDetectFail b) s = exec (.poll true b) s ∧ exec (.rxAStart b) s = exec (.poll true b) s ∧
    exec (.rxABadStart b) s = exec (.poll true b) s ∧ exec (.rxAToken b) s = exec (.poll true b) s ∧
    exec (.rxBExt b) s = exec (.poll true b) s ∧ exec (.rxBTable b) s = exec (.poll true b) s ∧
    exec (.rxBUnresolved b) s = exec (.poll true b) s ∧
    (∀ len, exec (.rxALength len) s = exec (.poll true 0x0E) s)

/-- The transport adapter (30_encoding.md R77): what it presents decodes to a POLL, and after it the consumed bytes and the
bytes still offered are together the same stream as before. -/
def Obligations.AdapterLosesNoByte : Prop :=
  ∀ (s t : State) (stream : List Byte), exec (decodeWord (presentHead stream)) s = .next t →
    t.rxStream ++ advance t.result stream = s.rxStream ++ stream

/-! ### ENSURE -/

/-- ENSURE of a target already met returns ok and changes nothing (41_length_negotiation.md R142; no claim rests on a
shrinking request beyond that, 93_implementation_defined.md U2). -/
def Obligations.EnsureMetTargetIsNoOp : Prop :=
  ∀ (s : State) (req : Half), Ready s → (s.state = .readingBody ∨ s.state = .complete) → req ≤ s.bytesWanted →
    exec (.ensure req) s = .next { s with result := some (okWord true), txLast := [] }

/-- ENSURE above the target raises it, and reopens a completed frame (41_length_negotiation.md R141, R143; the reopening is the
spec's decision D10). -/
def Obligations.EnsureRaisesTargetAndReopens : Prop :=
  ∀ (s : State) (req : Half), Ready s → (s.state = .readingBody ∨ s.state = .complete) → s.bytesWanted < req →
    req.toNat ≤ s.cfg.cap →
    exec (.ensure req) s =
      .next { s with state := .readingBody, bytesWanted := req, result := some (okWord false), txLast := [] }

/-- ENSURE in Idle or ReadingHeader is the fault ENSURE_PHASE, and above CAP the fault ENSURE_OVERFLOW (the spec's decisions D11
and D12). -/
def Obligations.EnsureFaults : Prop :=
  ∀ (s : State) (req : Half), Ready s →
    ((s.state = .idle ∨ s.state = .readingHeader) →
      exec (.ensure req) s =
        .next { s with fault := some ⟨.ensurePhase, 0x1000#16 ++ req⟩, result := none, txLast := [] }) ∧
    ((s.state = .readingBody ∨ s.state = .complete) → s.bytesWanted < req → s.cfg.cap < req.toNat →
      exec (.ensure req) s =
        .next { s with fault := some ⟨.ensureOverflow, 0x1000#16 ++ req⟩, result := none, txLast := [] })

/-! ### SEND -/

/-- SEND in ProtocolA (42_response_encoder.md R151 to R154, R156): the status overwrites index 1, header, body and checksum go
out in order, and the parser is released. -/
def Obligations.SendInProtocolA : Prop :=
  ∀ (s : State) (status : Byte) (size : Half) (body : List Byte), Inv s → s.fault = none → s.mode = .protocolA →
    size.toNat ≤ s.cfg.cap → body = (List.range size.toNat).map (fun j => if j = 1 then status else bufByte s j) →
    ∃ t, exec (.send status size) s = .next t ∧ StoresByte s t 1 status ∧
      t.txLast = [0x1B, s.seq, size.extractLsb' 8 8, size.extractLsb' 0 8, 0x0E] ++ body ++
        [body.foldl (· ^^^ ·) (0x1B ^^^ s.seq ^^^ size.extractLsb' 8 8 ^^^ size.extractLsb' 0 8 ^^^ 0x0E)] ∧
      t = { s with
        state := .idle, bytesRead := 0, bytesWanted := 1, cksum := 0, buf := t.buf, rxFrame := []
        txStream := s.txStream ++ t.txLast, txLast := t.txLast, result := some 0 }

/-- SEND in ProtocolB transmits the raw bytes alone (42_response_encoder.md R151, R155, R156); in Undetermined mode it does the
same (the spec's decision D14). -/
def Obligations.SendWithoutEnvelope : Prop :=
  ∀ (s : State) (status : Byte) (size : Half), Inv s → s.fault = none →
    (s.mode = .protocolB ∨ s.mode = .undetermined) → size.toNat ≤ s.cfg.cap →
    ∃ t, exec (.send status size) s = .next t ∧ StoresByte s t 1 status ∧
      t.txLast = (List.range size.toNat).map (fun j => if j = 1 then status else bufByte s j) ∧
      t = { s with
        state := .idle, bytesRead := 0, bytesWanted := 1, cksum := 0, buf := t.buf, rxFrame := []
        txStream := s.txStream ++ t.txLast, txLast := t.txLast, result := some 0 }

/-- SEND of more than CAP bytes is the fault SEND_OVERFLOW (the spec's decision D13). -/
def Obligations.SendOverflowFaults : Prop :=
  ∀ (s : State) (status : Byte) (size : Half), Ready s → s.cfg.cap < size.toNat →
    exec (.send status size) s =
      .next { s with fault := some ⟨.sendOverflow, 0x20#8 ++ status ++ size⟩, result := none, txLast := [] }

/-- A ProtocolA response is a ProtocolA frame (30_encoding.md R78, 42_response_encoder.md R153): its bytes XOR to zero, there are
size + 6 of them, and they read as a frame with the captured sequence number and the right checksum. -/
def Obligations.ResponseIsAWellChecksummedFrame : Prop :=
  ∀ (s t : State) (status : Byte) (size : Half), s.mode = .protocolA → size.toNat ≤ s.cfg.cap →
    exec (.send status size) s = .next t →
    xorAll t.txLast = 0 ∧ t.txLast.length = size.toNat + 6 ∧
      ∃ body, body.length = size.toNat ∧
        decodeFrameA t.txLast = .ok (.wireAFrame s.seq body (checksumA s.seq body))

/-! ### The interpreter port -/

/-- BUF_RD, BUF_WR and GET_SIZE where they execute (43_interpreter_port.md R172, R173, R174; the operations are the spec's
decisions D2 and D15). -/
def Obligations.PortOperationsComplete : Prop :=
  (∀ (s : State) (addr : Half), Ready s → s.state = .complete → addr.toNat < s.cfg.cap →
    exec (.bufRd addr) s = .next { s with result := some (byteWord (bufByte s addr.toNat)), txLast := [] }) ∧
  (∀ (s : State) (data : Byte) (addr : Half), Inv s → s.fault = none → s.state = .complete → addr.toNat < s.cfg.cap →
    ∃ t, exec (.bufWr data addr) s = .next t ∧ StoresByte s t addr.toNat data ∧
      t = { s with buf := t.buf, result := some 0, txLast := [] }) ∧
  (∀ s : State, Ready s → exec .getSize s = .next { s with result := some (sizeWord s.bodySize), txLast := [] })

/-- BUF_RD and BUF_WR outside Complete are the fault BUF_PHASE, and at or above CAP the fault BUF_RANGE (the spec's decision
D15). -/
def Obligations.PortFaults : Prop :=
  ∀ (s : State) (data : Byte) (addr : Half), Ready s →
    (s.state ≠ .complete →
      exec (.bufRd addr) s =
        .next { s with fault := some ⟨.bufPhase, 0x3000#16 ++ addr⟩, result := none, txLast := [] } ∧
      exec (.bufWr data addr) s =
        .next { s with fault := some ⟨.bufPhase, 0x40#8 ++ data ++ addr⟩, result := none, txLast := [] }) ∧
    (s.state = .complete → s.cfg.cap ≤ addr.toNat →
      exec (.bufRd addr) s =
        .next { s with fault := some ⟨.bufRange, 0x3000#16 ++ addr⟩, result := none, txLast := [] } ∧
      exec (.bufWr data addr) s =
        .next { s with fault := some ⟨.bufRange, 0x40#8 ++ data ++ addr⟩, result := none, txLast := [] })

/-- The three reserved rows record the fault REFUSED with their word and change nothing else (43_interpreter_port.md R175, the
spec's decision D16). -/
def Obligations.ReservedRowsAreRefused : Prop :=
  ∀ (s : State) (a : BitVec 29) (b : BitVec 31) (w : Word), Ready s →
    exec (.reservedOp67 a) s =
      .next { s with fault := some ⟨.refused, 3#3 ++ a⟩, result := none, txLast := [] } ∧
    exec (.reservedOp815 b) s =
      .next { s with fault := some ⟨.refused, 1#1 ++ b⟩, result := none, txLast := [] } ∧
    exec (.reservedBits w) s = .next { s with fault := some ⟨.refused, w⟩, result := none, txLast := [] }

/-- A request word with a reserved operation code or a reserved bit set is refused when a step takes it, and no other word is
(43_interpreter_port.md R175). -/
def Obligations.ReservedWordsAreRefused : Prop :=
  ∀ (s : State) (w : Word) (rest : List Input), Ready s → s.port = .request w :: rest →
    ((6 ≤ (w >>> 28).toNat ∨ w &&& reservedMask (w >>> 28).toNat ≠ 0) →
      step s = .next { s with port := rest, fault := some ⟨.refused, w⟩, result := none, txLast := [] }) ∧
    (∀ t, step s = .next t → t.fault = some ⟨.refused, w⟩ →
      6 ≤ (w >>> 28).toNat ∨ w &&& reservedMask (w >>> 28).toNat ≠ 0)

/-! ### Whole frames -/

/-- A frame on the wire is the POLLs of its bytes in order, in every state (30_encoding.md R85; log 10). -/
def Obligations.FramesArePolls : Prop :=
  ∀ (s : State) (q : Byte) (body : List Byte) (ck code : Byte) (params : List Byte),
    exec (.wireAFrame q body ck) s = pollAll (frameA q body ck) s ∧
    exec (.wireBFrame code params) s = pollAll (code :: params) s

/-- A ProtocolA frame with a length of at most MAX_BODY and the right checksum is parsed with success (30_encoding.md R78,
40_frame_state_machine.md R121): code, body size, body bytes, sequence number, and the header residue beyond the body.
That a frame is one instruction, with the result of its last POLL, is the model's choice (log 10). -/
def Obligations.GoodFrameAIsParsed : Prop :=
  ∀ (s : State) (q : Byte) (body : List Byte) (ck : Byte), Inv s → s.fault = none → s.state = .idle →
    s.mode ≠ .protocolB → body.length ≤ s.cfg.maxBody.toNat → ck = checksumA q body →
    ∃ t, exec (.wireAFrame q body ck) s = .next t ∧
      (∀ j, bufByte t j = if h : j < (body ++ [ck]).length then (body ++ [ck])[j]'h
        else if h : j < (headerA q (BitVec.ofNat 16 body.length)).length
          then (headerA q (BitVec.ofNat 16 body.length))[j]'h else bufByte s j) ∧
      t = { s with
        mode := .protocolA, state := .complete, bytesRead := BitVec.ofNat 16 (body.length + 1)
        bytesWanted := BitVec.ofNat 16 (body.length + 1), cksum := 0, seq := q
        bodySize := BitVec.ofNat 16 body.length, buf := t.buf, rxStream := s.rxStream ++ frameA q body ck
        rxFrame := frameA q body ck, result := some (pollWord true (.command ((body ++ [ck]).headD 0))), txLast := [] }

/-- The same frame with any other last byte is a ChecksumError, never a success: so is one with a bit flipped in its body or
checksum (40_frame_state_machine.md R117). The error response has gone out and the parser is idle in ProtocolA. That a frame is
one instruction, with the result and the transmission of its last POLL, is the model's choice (log 10). -/
def Obligations.BadChecksumFrameAIsRejected : Prop :=
  ∀ (s : State) (q : Byte) (body : List Byte) (ck : Byte), Inv s → s.fault = none → s.state = .idle →
    s.mode ≠ .protocolB → body.length ≤ s.cfg.maxBody.toNat → ck ≠ checksumA q body →
    ∃ t, exec (.wireAFrame q body ck) s = .next t ∧ t.result = some (pollWord true .checksumError) ∧
      t.state = .idle ∧ t.mode = .protocolA ∧ t.seq = q ∧ t.bodySize = s.bodySize ∧
      t.rxStream = s.rxStream ++ frameA q body ck ∧ t.txStream = s.txStream ++ t.txLast ∧
      t.txLast = frameA q [(body ++ [ck]).headD 0, s.cfg.cksumErrStatus]
        (checksumA q [(body ++ [ck]).headD 0, s.cfg.cksumErrStatus])

/-- A ProtocolB frame of the length its code gives is parsed with success (30_encoding.md R79, 40_frame_state_machine.md R121).
That a frame is one instruction, and for an extended code its first two bytes, is the model's choice (log 10). -/
def Obligations.GoodFrameBIsParsed : Prop :=
  ∀ (s : State) (code : Byte) (params : List Byte), Inv s → s.fault = none → s.state = .idle →
    (s.mode = .protocolB ∨ (s.mode = .undetermined ∧ code = s.cfg.signOn)) →
    (Instr.wireBFrame code params).wf s.cfg = true →
    ∃ t, exec (.wireBFrame code params) s = .next t ∧
      (∀ j, bufByte t j = if h : j < (code :: params).length then (code :: params)[j]'h else bufByte s j) ∧
      t = { s with
        mode := .protocolB, state := .complete, bytesRead := BitVec.ofNat 16 (params.length + 1)
        bytesWanted := BitVec.ofNat 16 (params.length + 1), cksum := xorAll (code :: params)
        bodySize := BitVec.ofNat 16 params.length, buf := t.buf, rxStream := s.rxStream ++ (code :: params)
        rxFrame := code :: params, result := some (pollWord true (.command code)), txLast := [] }

/-- A frame that arrives while a command is in flight is not consumed (40_frame_state_machine.md R101,
70_reset_and_hazards.md R237). That a frame is one instruction is the model's choice (log 10). -/
def Obligations.FrameInFlightIsNotConsumed : Prop :=
  ∀ (s : State) (q : Byte) (body : List Byte) (ck code : Byte) (params : List Byte), Ready s → s.state = .complete →
    exec (.wireAFrame q body ck) s = .next { s with result := some (pollWord false .incomplete), txLast := [] } ∧
    exec (.wireBFrame code params) s = .next { s with result := some (pollWord false .incomplete), txLast := [] }

/-- The expansion of FRAMEA (30_encoding.md R85, the spec's decision D22) presents one POLL for each byte of a frame whose bytes
XOR to zero. -/
def Obligations.FrameaExpandsToAGoodFrame : Prop :=
  ∀ (q : Byte) (ds : List Byte), xorAll (frameA q ds (checksumA q ds)) = 0 ∧
    (assemble (.frameA q ds)).map (decodeInput Config.resetContext) =
      (frameA q ds (checksumA q ds)).map (fun b => .ok (.poll true b))
end

