-- ==== Sys2Proof/Laws/State.lean ====
section
/-! SUPPORT. One lemma for each field of State under each shared update. -/

namespace Sys2Proof.Machine

variable (s : State)

@[simp] theorem startOp_cfg : (startOp s).cfg = s.cfg := rfl
@[simp] theorem startOp_mode : (startOp s).mode = s.mode := rfl
@[simp] theorem startOp_state : (startOp s).state = s.state := rfl
@[simp] theorem startOp_bytesRead : (startOp s).bytesRead = s.bytesRead := rfl
@[simp] theorem startOp_bytesWanted : (startOp s).bytesWanted = s.bytesWanted := rfl
@[simp] theorem startOp_cksum : (startOp s).cksum = s.cksum := rfl
@[simp] theorem startOp_seq : (startOp s).seq = s.seq := rfl
@[simp] theorem startOp_bodySize : (startOp s).bodySize = s.bodySize := rfl
@[simp] theorem startOp_fault : (startOp s).fault = s.fault := rfl
@[simp] theorem startOp_buf : (startOp s).buf = s.buf := rfl
@[simp] theorem startOp_draws : (startOp s).draws = s.draws := rfl
@[simp] theorem startOp_port : (startOp s).port = s.port := rfl
@[simp] theorem startOp_rxStream : (startOp s).rxStream = s.rxStream := rfl
@[simp] theorem startOp_rxFrame : (startOp s).rxFrame = s.rxFrame := rfl
@[simp] theorem startOp_txStream : (startOp s).txStream = s.txStream := rfl
@[simp] theorem startOp_txLast : (startOp s).txLast = [] := rfl
@[simp] theorem startOp_result : (startOp s).result = none := rfl

@[simp] theorem txEmit_cfg (bs : List Byte) : (txEmit bs s).cfg = s.cfg := rfl
@[simp] theorem txEmit_mode (bs : List Byte) : (txEmit bs s).mode = s.mode := rfl
@[simp] theorem txEmit_state (bs : List Byte) : (txEmit bs s).state = s.state := rfl
@[simp] theorem txEmit_bytesRead (bs : List Byte) : (txEmit bs s).bytesRead = s.bytesRead := rfl
@[simp] theorem txEmit_bytesWanted (bs : List Byte) : (txEmit bs s).bytesWanted = s.bytesWanted := rfl
@[simp] theorem txEmit_cksum (bs : List Byte) : (txEmit bs s).cksum = s.cksum := rfl
@[simp] theorem txEmit_seq (bs : List Byte) : (txEmit bs s).seq = s.seq := rfl
@[simp] theorem txEmit_bodySize (bs : List Byte) : (txEmit bs s).bodySize = s.bodySize := rfl
@[simp] theorem txEmit_fault (bs : List Byte) : (txEmit bs s).fault = s.fault := rfl
@[simp] theorem txEmit_buf (bs : List Byte) : (txEmit bs s).buf = s.buf := rfl
@[simp] theorem txEmit_draws (bs : List Byte) : (txEmit bs s).draws = s.draws := rfl
@[simp] theorem txEmit_port (bs : List Byte) : (txEmit bs s).port = s.port := rfl
@[simp] theorem txEmit_rxStream (bs : List Byte) : (txEmit bs s).rxStream = s.rxStream := rfl
@[simp] theorem txEmit_rxFrame (bs : List Byte) : (txEmit bs s).rxFrame = s.rxFrame := rfl
@[simp] theorem txEmit_txStream (bs : List Byte) : (txEmit bs s).txStream = s.txStream ++ bs := rfl
@[simp] theorem txEmit_txLast (bs : List Byte) : (txEmit bs s).txLast = s.txLast ++ bs := rfl
@[simp] theorem txEmit_result (bs : List Byte) : (txEmit bs s).result = s.result := rfl

@[simp] theorem answer_cfg (w : Word) : (answer w s).cfg = s.cfg := rfl
@[simp] theorem answer_mode (w : Word) : (answer w s).mode = s.mode := rfl
@[simp] theorem answer_state (w : Word) : (answer w s).state = s.state := rfl
@[simp] theorem answer_bytesRead (w : Word) : (answer w s).bytesRead = s.bytesRead := rfl
@[simp] theorem answer_bytesWanted (w : Word) : (answer w s).bytesWanted = s.bytesWanted := rfl
@[simp] theorem answer_cksum (w : Word) : (answer w s).cksum = s.cksum := rfl
@[simp] theorem answer_seq (w : Word) : (answer w s).seq = s.seq := rfl
@[simp] theorem answer_bodySize (w : Word) : (answer w s).bodySize = s.bodySize := rfl
@[simp] theorem answer_fault (w : Word) : (answer w s).fault = s.fault := rfl
@[simp] theorem answer_buf (w : Word) : (answer w s).buf = s.buf := rfl
@[simp] theorem answer_draws (w : Word) : (answer w s).draws = s.draws := rfl
@[simp] theorem answer_port (w : Word) : (answer w s).port = s.port := rfl
@[simp] theorem answer_rxStream (w : Word) : (answer w s).rxStream = s.rxStream := rfl
@[simp] theorem answer_rxFrame (w : Word) : (answer w s).rxFrame = s.rxFrame := rfl
@[simp] theorem answer_txStream (w : Word) : (answer w s).txStream = s.txStream := rfl
@[simp] theorem answer_txLast (w : Word) : (answer w s).txLast = s.txLast := rfl
@[simp] theorem answer_result (w : Word) : (answer w s).result = some w := rfl

@[simp] theorem setBufByte_cfg (i : Nat) (v : Byte) : (setBufByte i v s).cfg = s.cfg := rfl
@[simp] theorem setBufByte_mode (i : Nat) (v : Byte) : (setBufByte i v s).mode = s.mode := rfl
@[simp] theorem setBufByte_state (i : Nat) (v : Byte) : (setBufByte i v s).state = s.state := rfl
@[simp] theorem setBufByte_bytesRead (i : Nat) (v : Byte) : (setBufByte i v s).bytesRead = s.bytesRead := rfl
@[simp] theorem setBufByte_bytesWanted (i : Nat) (v : Byte) : (setBufByte i v s).bytesWanted = s.bytesWanted := rfl
@[simp] theorem setBufByte_cksum (i : Nat) (v : Byte) : (setBufByte i v s).cksum = s.cksum := rfl
@[simp] theorem setBufByte_seq (i : Nat) (v : Byte) : (setBufByte i v s).seq = s.seq := rfl
@[simp] theorem setBufByte_bodySize (i : Nat) (v : Byte) : (setBufByte i v s).bodySize = s.bodySize := rfl
@[simp] theorem setBufByte_fault (i : Nat) (v : Byte) : (setBufByte i v s).fault = s.fault := rfl
@[simp] theorem setBufByte_buf (i : Nat) (v : Byte) : (setBufByte i v s).buf = Memory.write s.draws s.buf i v := rfl
@[simp] theorem setBufByte_draws (i : Nat) (v : Byte) : (setBufByte i v s).draws = s.draws := rfl
@[simp] theorem setBufByte_port (i : Nat) (v : Byte) : (setBufByte i v s).port = s.port := rfl
@[simp] theorem setBufByte_rxStream (i : Nat) (v : Byte) : (setBufByte i v s).rxStream = s.rxStream := rfl
@[simp] theorem setBufByte_rxFrame (i : Nat) (v : Byte) : (setBufByte i v s).rxFrame = s.rxFrame := rfl
@[simp] theorem setBufByte_txStream (i : Nat) (v : Byte) : (setBufByte i v s).txStream = s.txStream := rfl
@[simp] theorem setBufByte_txLast (i : Nat) (v : Byte) : (setBufByte i v s).txLast = s.txLast := rfl
@[simp] theorem setBufByte_result (i : Nat) (v : Byte) : (setBufByte i v s).result = s.result := rfl

@[simp] theorem takeByte_cfg (b : Byte) : (takeByte b s).cfg = s.cfg := rfl
@[simp] theorem takeByte_mode (b : Byte) : (takeByte b s).mode = s.mode := rfl
@[simp] theorem takeByte_state (b : Byte) : (takeByte b s).state = s.state := rfl
@[simp] theorem takeByte_bytesRead (b : Byte) : (takeByte b s).bytesRead = s.bytesRead + 1 := rfl
@[simp] theorem takeByte_bytesWanted (b : Byte) : (takeByte b s).bytesWanted = s.bytesWanted := rfl
@[simp] theorem takeByte_cksum (b : Byte) : (takeByte b s).cksum = s.cksum ^^^ b := rfl
@[simp] theorem takeByte_seq (b : Byte) : (takeByte b s).seq = s.seq := rfl
@[simp] theorem takeByte_bodySize (b : Byte) : (takeByte b s).bodySize = s.bodySize := rfl
@[simp] theorem takeByte_fault (b : Byte) : (takeByte b s).fault = s.fault := rfl
@[simp] theorem takeByte_buf (b : Byte) : (takeByte b s).buf = Memory.write s.draws s.buf s.bytesRead.toNat b := rfl
@[simp] theorem takeByte_draws (b : Byte) : (takeByte b s).draws = s.draws := rfl
@[simp] theorem takeByte_port (b : Byte) : (takeByte b s).port = s.port := rfl
@[simp] theorem takeByte_rxStream (b : Byte) : (takeByte b s).rxStream = s.rxStream ++ [b] := rfl
@[simp] theorem takeByte_rxFrame (b : Byte) : (takeByte b s).rxFrame = s.rxFrame ++ [b] := rfl
@[simp] theorem takeByte_txStream (b : Byte) : (takeByte b s).txStream = s.txStream := rfl
@[simp] theorem takeByte_txLast (b : Byte) : (takeByte b s).txLast = s.txLast := rfl
@[simp] theorem takeByte_result (b : Byte) : (takeByte b s).result = s.result := rfl

@[simp] theorem softReset_cfg : (softReset s).cfg = s.cfg := rfl
@[simp] theorem softReset_mode : (softReset s).mode = s.mode := rfl
@[simp] theorem softReset_state : (softReset s).state = .idle := rfl
@[simp] theorem softReset_bytesRead : (softReset s).bytesRead = 0 := rfl
@[simp] theorem softReset_bytesWanted : (softReset s).bytesWanted = 1 := rfl
@[simp] theorem softReset_cksum : (softReset s).cksum = 0 := rfl
@[simp] theorem softReset_seq : (softReset s).seq = s.seq := rfl
@[simp] theorem softReset_bodySize : (softReset s).bodySize = s.bodySize := rfl
@[simp] theorem softReset_fault : (softReset s).fault = s.fault := rfl
@[simp] theorem softReset_buf : (softReset s).buf = s.buf := rfl
@[simp] theorem softReset_draws : (softReset s).draws = s.draws := rfl
@[simp] theorem softReset_port : (softReset s).port = s.port := rfl
@[simp] theorem softReset_rxStream : (softReset s).rxStream = s.rxStream := rfl
@[simp] theorem softReset_rxFrame : (softReset s).rxFrame = [] := rfl
@[simp] theorem softReset_txStream : (softReset s).txStream = s.txStream := rfl
@[simp] theorem softReset_txLast : (softReset s).txLast = s.txLast := rfl
@[simp] theorem softReset_result : (softReset s).result = s.result := rfl

@[simp] theorem hardReset_cfg : (hardReset s).cfg = s.cfg := rfl
@[simp] theorem hardReset_mode : (hardReset s).mode = .undetermined := rfl
@[simp] theorem hardReset_state : (hardReset s).state = .idle := rfl
@[simp] theorem hardReset_bytesRead : (hardReset s).bytesRead = 0 := rfl
@[simp] theorem hardReset_bytesWanted : (hardReset s).bytesWanted = 1 := rfl
@[simp] theorem hardReset_cksum : (hardReset s).cksum = 0 := rfl
@[simp] theorem hardReset_seq : (hardReset s).seq = Config.seqInit (s.draws + 1) := rfl
@[simp] theorem hardReset_bodySize : (hardReset s).bodySize = Config.sizeInit (s.draws + 1) := rfl
@[simp] theorem hardReset_fault : (hardReset s).fault = s.fault := rfl
@[simp] theorem hardReset_buf : (hardReset s).buf = [] := rfl
@[simp] theorem hardReset_draws : (hardReset s).draws = s.draws + 1 := rfl
@[simp] theorem hardReset_port : (hardReset s).port = s.port := rfl
@[simp] theorem hardReset_rxStream : (hardReset s).rxStream = s.rxStream := rfl
@[simp] theorem hardReset_rxFrame : (hardReset s).rxFrame = [] := rfl
@[simp] theorem hardReset_txStream : (hardReset s).txStream = s.txStream := rfl
@[simp] theorem hardReset_txLast : (hardReset s).txLast = s.txLast := rfl
@[simp] theorem hardReset_result : (hardReset s).result = s.result := rfl

@[simp] theorem raiseFault_cfg (r : FaultReason) (w : Word) : (raiseFault r w s).cfg = s.cfg := rfl
@[simp] theorem raiseFault_mode (r : FaultReason) (w : Word) : (raiseFault r w s).mode = s.mode := rfl
@[simp] theorem raiseFault_state (r : FaultReason) (w : Word) : (raiseFault r w s).state = s.state := rfl
@[simp] theorem raiseFault_bytesRead (r : FaultReason) (w : Word) : (raiseFault r w s).bytesRead = s.bytesRead := rfl
@[simp] theorem raiseFault_bytesWanted (r : FaultReason) (w : Word) : (raiseFault r w s).bytesWanted = s.bytesWanted := rfl
@[simp] theorem raiseFault_cksum (r : FaultReason) (w : Word) : (raiseFault r w s).cksum = s.cksum := rfl
@[simp] theorem raiseFault_seq (r : FaultReason) (w : Word) : (raiseFault r w s).seq = s.seq := rfl
@[simp] theorem raiseFault_bodySize (r : FaultReason) (w : Word) : (raiseFault r w s).bodySize = s.bodySize := rfl
@[simp] theorem raiseFault_fault (r : FaultReason) (w : Word) : (raiseFault r w s).fault = some ⟨r, w⟩ := rfl
@[simp] theorem raiseFault_buf (r : FaultReason) (w : Word) : (raiseFault r w s).buf = s.buf := rfl
@[simp] theorem raiseFault_draws (r : FaultReason) (w : Word) : (raiseFault r w s).draws = s.draws := rfl
@[simp] theorem raiseFault_port (r : FaultReason) (w : Word) : (raiseFault r w s).port = s.port := rfl
@[simp] theorem raiseFault_rxStream (r : FaultReason) (w : Word) : (raiseFault r w s).rxStream = s.rxStream := rfl
@[simp] theorem raiseFault_rxFrame (r : FaultReason) (w : Word) : (raiseFault r w s).rxFrame = s.rxFrame := rfl
@[simp] theorem raiseFault_txStream (r : FaultReason) (w : Word) : (raiseFault r w s).txStream = s.txStream := rfl
@[simp] theorem raiseFault_txLast (r : FaultReason) (w : Word) : (raiseFault r w s).txLast = s.txLast := rfl
@[simp] theorem raiseFault_result (r : FaultReason) (w : Word) : (raiseFault r w s).result = s.result := rfl

@[simp] theorem await_cfg (st : ParserState) (n : Half) : (await st n s).cfg = s.cfg := rfl
@[simp] theorem await_mode (st : ParserState) (n : Half) : (await st n s).mode = s.mode := rfl
@[simp] theorem await_state (st : ParserState) (n : Half) : (await st n s).state = st := rfl
@[simp] theorem await_bytesRead (st : ParserState) (n : Half) : (await st n s).bytesRead = s.bytesRead := rfl
@[simp] theorem await_bytesWanted (st : ParserState) (n : Half) : (await st n s).bytesWanted = n := rfl
@[simp] theorem await_cksum (st : ParserState) (n : Half) : (await st n s).cksum = s.cksum := rfl
@[simp] theorem await_seq (st : ParserState) (n : Half) : (await st n s).seq = s.seq := rfl
@[simp] theorem await_bodySize (st : ParserState) (n : Half) : (await st n s).bodySize = s.bodySize := rfl
@[simp] theorem await_fault (st : ParserState) (n : Half) : (await st n s).fault = s.fault := rfl
@[simp] theorem await_buf (st : ParserState) (n : Half) : (await st n s).buf = s.buf := rfl
@[simp] theorem await_draws (st : ParserState) (n : Half) : (await st n s).draws = s.draws := rfl
@[simp] theorem await_port (st : ParserState) (n : Half) : (await st n s).port = s.port := rfl
@[simp] theorem await_rxStream (st : ParserState) (n : Half) : (await st n s).rxStream = s.rxStream := rfl
@[simp] theorem await_rxFrame (st : ParserState) (n : Half) : (await st n s).rxFrame = s.rxFrame := rfl
@[simp] theorem await_txStream (st : ParserState) (n : Half) : (await st n s).txStream = s.txStream := rfl
@[simp] theorem await_txLast (st : ParserState) (n : Half) : (await st n s).txLast = s.txLast := rfl
@[simp] theorem await_result (st : ParserState) (n : Half) : (await st n s).result = s.result := rfl

@[simp] theorem raiseTarget_cfg (req : Half) : (raiseTarget req s).cfg = s.cfg := rfl
@[simp] theorem raiseTarget_mode (req : Half) : (raiseTarget req s).mode = s.mode := rfl
@[simp] theorem raiseTarget_bytesRead (req : Half) : (raiseTarget req s).bytesRead = s.bytesRead := rfl
@[simp] theorem raiseTarget_bytesWanted (req : Half) : (raiseTarget req s).bytesWanted = req := rfl
@[simp] theorem raiseTarget_cksum (req : Half) : (raiseTarget req s).cksum = s.cksum := rfl
@[simp] theorem raiseTarget_seq (req : Half) : (raiseTarget req s).seq = s.seq := rfl
@[simp] theorem raiseTarget_bodySize (req : Half) : (raiseTarget req s).bodySize = s.bodySize := rfl
@[simp] theorem raiseTarget_fault (req : Half) : (raiseTarget req s).fault = s.fault := rfl
@[simp] theorem raiseTarget_buf (req : Half) : (raiseTarget req s).buf = s.buf := rfl
@[simp] theorem raiseTarget_draws (req : Half) : (raiseTarget req s).draws = s.draws := rfl
@[simp] theorem raiseTarget_port (req : Half) : (raiseTarget req s).port = s.port := rfl
@[simp] theorem raiseTarget_rxStream (req : Half) : (raiseTarget req s).rxStream = s.rxStream := rfl
@[simp] theorem raiseTarget_rxFrame (req : Half) : (raiseTarget req s).rxFrame = s.rxFrame := rfl
@[simp] theorem raiseTarget_txStream (req : Half) : (raiseTarget req s).txStream = s.txStream := rfl
@[simp] theorem raiseTarget_txLast (req : Half) : (raiseTarget req s).txLast = s.txLast := rfl
@[simp] theorem raiseTarget_result (req : Half) : (raiseTarget req s).result = s.result := rfl

@[simp] theorem withPort_cfg (p : List Input) : (withPort p s).cfg = s.cfg := rfl
@[simp] theorem withPort_mode (p : List Input) : (withPort p s).mode = s.mode := rfl
@[simp] theorem withPort_state (p : List Input) : (withPort p s).state = s.state := rfl
@[simp] theorem withPort_bytesRead (p : List Input) : (withPort p s).bytesRead = s.bytesRead := rfl
@[simp] theorem withPort_bytesWanted (p : List Input) : (withPort p s).bytesWanted = s.bytesWanted := rfl
@[simp] theorem withPort_cksum (p : List Input) : (withPort p s).cksum = s.cksum := rfl
@[simp] theorem withPort_seq (p : List Input) : (withPort p s).seq = s.seq := rfl
@[simp] theorem withPort_bodySize (p : List Input) : (withPort p s).bodySize = s.bodySize := rfl
@[simp] theorem withPort_fault (p : List Input) : (withPort p s).fault = s.fault := rfl
@[simp] theorem withPort_buf (p : List Input) : (withPort p s).buf = s.buf := rfl
@[simp] theorem withPort_draws (p : List Input) : (withPort p s).draws = s.draws := rfl
@[simp] theorem withPort_port (p : List Input) : (withPort p s).port = p := rfl
@[simp] theorem withPort_rxStream (p : List Input) : (withPort p s).rxStream = s.rxStream := rfl
@[simp] theorem withPort_rxFrame (p : List Input) : (withPort p s).rxFrame = s.rxFrame := rfl
@[simp] theorem withPort_txStream (p : List Input) : (withPort p s).txStream = s.txStream := rfl
@[simp] theorem withPort_txLast (p : List Input) : (withPort p s).txLast = s.txLast := rfl
@[simp] theorem withPort_result (p : List Input) : (withPort p s).result = s.result := rfl

theorem raiseTarget_state_complete (req : Half) (h : s.state = .complete) :
    (raiseTarget req s).state = .readingBody := by simp [raiseTarget, h]

theorem raiseTarget_state_other (req : Half) (h : s.state ≠ .complete) : (raiseTarget req s).state = s.state := by
  unfold raiseTarget; cases hs : s.state <;> simp_all

@[simp] theorem context_cfg : (context s).cfg = s.cfg := rfl
@[simp] theorem context_mode : (context s).mode = s.mode := rfl
@[simp] theorem context_state : (context s).state = s.state := rfl
@[simp] theorem context_bytesRead : (context s).bytesRead = s.bytesRead := rfl

end Sys2Proof.Machine
end

