-- ==== Sys2Proof/Laws/Memory.lean ====
section
/-! SUPPORT. The frame buffer: a read after a write, and the canonical form, which every write keeps. -/

namespace Sys2Proof.Machine

theorem Memory.read_put (d : Nat) (m : Memory) (a : Nat) (v : Byte) (i : Nat)
    (h : Memory.read d m a = Config.bufInit d a) :
    Memory.read d (Memory.put d a v m) i = if i = a then v else Memory.read d m i := by
  unfold Memory.put
  split <;> rename_i hv
  · split
    · subst_vars; exact h
    · rfl
  · rfl

theorem Memory.read_absent (d : Nat) (m : Memory) (a : Nat) (h : ∀ c ∈ m, a < c.1) :
    Memory.read d m a = Config.bufInit d a := by
  induction m with
  | nil => rfl
  | cons c m ih =>
    have hc : a < c.1 := h c (by simp)
    simp only [Memory.read, Nat.ne_of_lt hc, if_false]
    exact ih fun c hm => h c (by simp [hm])

theorem Memory.wf_cons (d : Nat) (c : Host.Cell) (m : Memory) :
    Memory.wf d (c :: m) = true ↔ c.2 ≠ Config.bufInit d c.1 ∧ (∀ x ∈ m, c.1 < x.1) ∧ Memory.wf d m = true := by
  obtain ⟨k, v⟩ := c
  simp [Memory.wf, and_assoc]

/-- What a read gives after a write. -/
theorem Memory.read_write (d : Nat) (m : Memory) (a : Nat) (v : Byte) (i : Nat) (hm : Memory.wf d m = true) :
    Memory.read d (Memory.write d m a v) i = if i = a then v else Memory.read d m i := by
  induction m with
  | nil => exact Memory.read_put d [] a v i rfl
  | cons c m ih =>
    obtain ⟨k, w⟩ := c
    obtain ⟨-, hlt, hwf⟩ := (Memory.wf_cons d (k, w) m).1 hm
    simp only [Memory.write]
    split
    · refine Memory.read_put d _ a v i (Memory.read_absent d _ a ?_)
      intro x hx
      rcases List.mem_cons.1 hx with rfl | hx
      · assumption
      · exact Nat.lt_trans ‹a < k› (hlt x hx)
    · split
      · subst_vars
        rw [Memory.read_put d m k v i (Memory.read_absent d m k hlt)]
        simp only [Memory.read]
        split <;> rfl
      · simp only [Memory.read, ih hwf]
        split <;> split <;> simp_all

theorem Memory.mem_put (d : Nat) (a : Nat) (v : Byte) (m : Memory) (c : Host.Cell) (h : c ∈ Memory.put d a v m) :
    c.1 = a ∨ c ∈ m := by
  unfold Memory.put at h
  split at h
  · exact .inr h
  · rcases List.mem_cons.1 h with rfl | h
    · exact .inl rfl
    · exact .inr h

theorem Memory.mem_write (d : Nat) (m : Memory) (a : Nat) (v : Byte) (c : Host.Cell) (h : c ∈ Memory.write d m a v) :
    c.1 = a ∨ c ∈ m := by
  induction m with
  | nil => exact Memory.mem_put d a v [] c h
  | cons x m ih =>
    obtain ⟨k, w⟩ := x
    simp only [Memory.write] at h
    split at h
    · exact Memory.mem_put d a v _ c h
    · split at h
      · exact (Memory.mem_put d a v m c h).imp_right (List.mem_cons_of_mem _)
      · rcases List.mem_cons.1 h with rfl | h
        · exact .inr (by simp)
        · exact (ih h).imp_right (List.mem_cons_of_mem _)

theorem Memory.wf_put (d : Nat) (a : Nat) (v : Byte) (m : Memory) (hlt : ∀ x ∈ m, a < x.1)
    (hm : Memory.wf d m = true) : Memory.wf d (Memory.put d a v m) = true := by
  unfold Memory.put
  split
  · exact hm
  · exact (Memory.wf_cons d (a, v) m).2 ⟨by assumption, hlt, hm⟩

/-- A write keeps the canonical form. -/
theorem Memory.wf_write (d : Nat) (m : Memory) (a : Nat) (v : Byte) (hm : Memory.wf d m = true) :
    Memory.wf d (Memory.write d m a v) = true := by
  induction m with
  | nil => exact Memory.wf_put d a v [] (by simp) hm
  | cons c m ih =>
    obtain ⟨k, w⟩ := c
    obtain ⟨hw, hlt, hwf⟩ := (Memory.wf_cons d (k, w) m).1 hm
    simp only [Memory.write]
    split
    · refine Memory.wf_put d a v _ ?_ hm
      intro x hx
      rcases List.mem_cons.1 hx with rfl | hx
      · assumption
      · exact Nat.lt_trans ‹a < k› (hlt x hx)
    · split
      · subst_vars
        exact Memory.wf_put d k v m hlt hwf
      · refine (Memory.wf_cons d (k, w) _).2 ⟨hw, ?_, ih hwf⟩
        intro x hx
        rcases Memory.mem_write d m a v x hx with h | h
        · show k < x.1
          omega
        · exact hlt x h

/-- A write inside the frame buffer lists no index outside it. -/
theorem Memory.below_write (d cap : Nat) (m : Memory) (a : Nat) (v : Byte) (ha : a < cap)
    (hm : Memory.below cap m = true) : Memory.below cap (Memory.write d m a v) = true := by
  simp only [Memory.below, List.all_eq_true, decide_eq_true_eq] at hm ⊢
  intro c hc
  rcases Memory.mem_write d m a v c hc with h | h
  · omega
  · exact hm c h

theorem bufByte_setBufByte (s : State) (i : Nat) (v : Byte) (j : Nat) (h : Memory.wf s.draws s.buf = true) :
    bufByte (setBufByte i v s) j = if j = i then v else bufByte s j :=
  Memory.read_write _ _ _ _ _ h

theorem bufByte_takeByte (s : State) (b : Byte) (j : Nat) (h : Memory.wf s.draws s.buf = true) :
    bufByte (takeByte b s) j = if j = s.bytesRead.toNat then b else bufByte s j :=
  Memory.read_write _ _ _ _ _ h

/-- Two states with the same buffer and the same draw read alike. -/
theorem bufByte_congr {s t : State} (hb : t.buf = s.buf) (hd : t.draws = s.draws) (j : Nat) :
    bufByte t j = bufByte s j := by simp [bufByte, hb, hd]

end Sys2Proof.Machine
end

