-- ==== Sys2Proof/Laws/Ops.lean ====
section
/-! SUPPORT. For each shared operation, what it answers: cited instead of unfolding it. -/

namespace Sys2Proof.Machine

variable {s t : State}

/-! ### Before an operation -/

theorem ifReady_next {o : Host.Outcome State Fault Refusal} (h : ifReady s o = .next t) : Ready s ∧ o = .next t := by
  unfold ifReady at h
  split at h
  · split at h
    · exact ⟨⟨by assumption, by assumption⟩, h⟩
    · cases h
  · cases h

theorem ifReady_of_ready {o : Host.Outcome State Fault Refusal} (h : Ready s) : ifReady s o = o := by
  simp [ifReady, h.1, h.2]

theorem ifReady_faulted {o : Host.Outcome State Fault Refusal} {f : FaultRecord} (hc : s.cfg.wf = true)
    (hf : s.fault = some f) : ifReady s o = .fault (.stuck f.reason) := by
  simp [ifReady, hc, hf]

theorem ifReady_illFormed {o : Host.Outcome State Fault Refusal} (hc : s.cfg.wf = false) :
    ifReady s o = .refused .illFormedConfig := by
  simp [ifReady, hc]

theorem operation_next {body : State → Host.Outcome State Fault Refusal} (h : operation s body = .next t) :
    Ready s ∧ body (startOp s) = .next t :=
  ifReady_next h

theorem operation_of_ready {body : State → Host.Outcome State Fault Refusal} (h : Ready s) :
    operation s body = body (startOp s) :=
  ifReady_of_ready h

theorem presentByte_next {b : Byte} {rest : State → State} (h : presentByte b rest s = .next t) :
    s.bytesRead.toNat < s.cfg.cap ∧ t = rest (takeByte b s) := by
  unfold presentByte at h
  split at h
  · exact ⟨by assumption, by injection h with h; exact h.symm⟩
  · cases h

theorem presentByte_of_room {b : Byte} {rest : State → State} (h : s.bytesRead.toNat < s.cfg.cap) :
    presentByte b rest s = .next (rest (takeByte b s)) := by
  simp [presentByte, h]

/-! ### POLL -/

/-- What a POLL can answer with a next state: it consumed nothing, or it took the byte and went on. -/
theorem pollBody_next {v : Bool} {b : Byte} (h : pollBody v b s = .next t) :
    ((s.state = .complete ∨ v = false) ∧ t = answer (pollWord false .incomplete) s) ∨
    (s.state ≠ .complete ∧ v = true ∧ s.bytesRead.toNat < s.cfg.cap ∧ t = afterIntake b (takeByte b s)) := by
  unfold pollBody at h
  split at h
  · exact .inl ⟨by assumption, by injection h with h; exact h.symm⟩
  · have := presentByte_next h
    simp_all

theorem pollBody_of_room {b : Byte} (hs : s.state ≠ .complete) (h : s.bytesRead.toNat < s.cfg.cap) :
    pollBody true b s = .next (afterIntake b (takeByte b s)) := by
  simp [pollBody, hs, presentByte_of_room h]

theorem pollBody_idle {v : Bool} {b : Byte} (h : s.state = .complete ∨ v = false) :
    pollBody v b s = .next (answer (pollWord false .incomplete) s) := by
  simp [pollBody, h]

/-! ### The response encoder -/

/-- Everything `emitResponse` does: the status byte, the transmitted bytes, the soft reset. -/
theorem emitResponse_eq (status : Byte) (size : Half) (s : State) :
    emitResponse status size s =
      { s with
        state := .idle, bytesRead := 0, bytesWanted := 1, cksum := 0, rxFrame := []
        buf := Memory.write s.draws s.buf 1 status
        txStream := s.txStream ++ responseBytes size (setBufByte 1 status s)
        txLast := s.txLast ++ responseBytes size (setBufByte 1 status s) } := rfl

@[simp] theorem bufBytes_length (s : State) (n : Nat) : (bufBytes s n).length = n := by simp [bufBytes]

theorem Cfg_cap_ge_six (c : Cfg) : 6 ≤ c.cap := by simp only [Cfg.cap, Config.headerSize]; omega

/-- W3 of 00_scope.md R9: CAP fits in 16 bits. -/
theorem Cfg_cap_le (c : Cfg) (h : c.wf = true) : c.cap ≤ 0xFFFF := by
  simp only [Cfg.wf, Bool.and_eq_true, decide_eq_true_eq] at h
  simp only [Cfg.cap, Config.headerSize]
  omega

/-- The first two conditions of 00_scope.md R9. -/
theorem Cfg_wf_codes (c : Cfg) (h : c.wf = true) : c.signOn ≠ Config.start ∧ c.ext0 ≠ c.ext1 := by
  simp only [Cfg.wf, Bool.and_eq_true, decide_eq_true_eq] at h
  exact ⟨h.1.1.1.1.1, h.1.1.1.1.2⟩

/-- W5 of 00_scope.md R9: a resolved length fits in the frame buffer. -/
theorem resolveLength_le_cap (c : Cfg) (b : Byte) (l : Half) (h : c.wf = true) (hl : resolveLength c b = some l) :
    l.toNat ≤ c.cap := by
  have h6 := Cfg_cap_ge_six c
  unfold resolveLength at hl
  split at hl
  · injection hl with hl
    subst hl
    exact Nat.le_trans (by decide) h6
  · split at hl
    · simp only [Option.map_eq_some_iff] at hl
      obtain ⟨e, he, rfl⟩ := hl
      simp only [Cfg.wf, Bool.and_eq_true, decide_eq_true_eq, List.all_eq_true] at h
      have hmem := List.mem_of_getElem? he
      have := h.1.2 e hmem
      simp only [BitVec.toNat_setWidth]
      have h8 := e.isLt
      omega
    · cases hl

end Sys2Proof.Machine
end

