-- ==== Sys2Proof/Laws/Exec.lean ====
section
/-! SUPPORT. What `exec` is for each instruction: an operation, and which body it has. -/

namespace Sys2Proof.Machine

variable (s : State)

theorem exec_poll (v : Bool) (b : Byte) : exec (.poll v b) s = operation s (pollBody v b) := rfl

theorem exec_ensure (req : Half) : exec (.ensure req) s = operation s fun s =>
    if s.state = .idle ∨ s.state = .readingHeader then .next (raiseFault .ensurePhase (ensureRequest req) s)
    else if req ≤ s.bytesWanted then .next (answer (okWord true) s)
    else if s.cfg.cap < req.toNat then .next (raiseFault .ensureOverflow (ensureRequest req) s)
    else .next (answer (okWord false) (raiseTarget req s)) := rfl

theorem exec_send (status : Byte) (size : Half) : exec (.send status size) s = operation s fun s =>
    if s.cfg.cap < size.toNat then .next (raiseFault .sendOverflow (sendRequest status size) s)
    else .next (answer zeroWord (emitResponse status size s)) := rfl

theorem exec_bufRd (addr : Half) : exec (.bufRd addr) s = operation s fun s =>
    if s.state ≠ .complete then .next (raiseFault .bufPhase (bufRdRequest addr) s)
    else if s.cfg.cap ≤ addr.toNat then .next (raiseFault .bufRange (bufRdRequest addr) s)
    else .next (answer (byteWord (bufByte s addr.toNat)) s) := rfl

theorem exec_bufWr (data : Byte) (addr : Half) : exec (.bufWr data addr) s = operation s fun s =>
    if s.state ≠ .complete then .next (raiseFault .bufPhase (bufWrRequest data addr) s)
    else if s.cfg.cap ≤ addr.toNat then .next (raiseFault .bufRange (bufWrRequest data addr) s)
    else .next (answer zeroWord (setBufByte addr.toNat data s)) := rfl

theorem exec_getSize : exec .getSize s = operation s fun s => .next (answer (sizeWord s.bodySize) s) := rfl

theorem exec_reservedOp67 (low : BitVec 29) : exec (.reservedOp67 low) s =
    operation s fun s => .next (raiseFault .refused (reservedOp67Request low) s) := rfl

theorem exec_reservedOp815 (low : BitVec 31) : exec (.reservedOp815 low) s =
    operation s fun s => .next (raiseFault .refused (reservedOp815Request low) s) := rfl

theorem exec_reservedBits (w : Word) : exec (.reservedBits w) s =
    operation s fun s => .next (raiseFault .refused w s) := rfl

theorem exec_reset : exec .reset s = operation s fun s => .next (hardReset s) := rfl

theorem exec_rxDetectSignOn (b : Byte) : exec (.rxDetectSignOn b) s =
    rxRow (.rxDetectSignOn b) b (fun s => firstByteB b { s with mode := .protocolB }) s := rfl

theorem exec_rxDetectStart (b : Byte) : exec (.rxDetectStart b) s =
    rxRow (.rxDetectStart b) b (fun s => incomplete (await .readingHeader 5 { s with mode := .protocolA })) s := rfl

theorem exec_rxDetectFail (b : Byte) : exec (.rxDetectFail b) s = rxRow (.rxDetectFail b) b headerError s := rfl

theorem exec_rxAStart (b : Byte) : exec (.rxAStart b) s =
    rxRow (.rxAStart b) b (fun s => incomplete (await .readingHeader 5 s)) s := rfl

theorem exec_rxABadStart (b : Byte) : exec (.rxABadStart b) s = rxRow (.rxABadStart b) b headerError s := rfl

theorem exec_rxAToken (b : Byte) : exec (.rxAToken b) s =
    rxRow (.rxAToken b) b (fun s => if b = Config.token then lengthStep s else headerError s) s := rfl

theorem exec_rxALength (len : Half) : exec (.rxALength len) s = operation s fun s =>
    if (Instr.rxALength len).inContext (context s) && decide (headerLength s = len) then
      presentByte Config.token
        (fun s => if s.cfg.maxBody < len then headerError s else
          incomplete { s with seq := headerSeq s, bytesRead := 0, bytesWanted := len + 1, state := .readingBody }) s
    else pollBody true Config.token s := rfl

theorem exec_rxBExt (b : Byte) : exec (.rxBExt b) s =
    rxRow (.rxBExt b) b (fun s => incomplete (await .readingBody 2 s)) s := rfl

theorem exec_rxBTable (b : Byte) : exec (.rxBTable b) s =
    rxRow (.rxBTable b) b (fun s => enterBodyB ((resolveLength s.cfg b).getD 0) s) s := rfl

theorem exec_rxBUnresolved (b : Byte) : exec (.rxBUnresolved b) s = rxRow (.rxBUnresolved b) b headerError s := rfl

theorem exec_wireAFrame (q : Byte) (body : List Byte) (ck : Byte) :
    exec (.wireAFrame q body ck) s = operation s (feed (frameA q body ck)) := rfl

theorem exec_wireBFrame (code : Byte) (params : List Byte) :
    exec (.wireBFrame code params) s = operation s (feed (code :: params)) := rfl

/-- A row is the POLL of its byte, with the row's own effect in its context. -/
theorem rxRow_eq (i : Instr) (b : Byte) (row : State → State) : rxRow i b row s =
    operation s fun s =>
      if i.wf s.cfg && i.inContext (context s) then presentByte b row s else pollBody true b s := rfl

/-! ### The context of each row, in the registers -/

theorem inContext_rxDetectSignOn (b : Byte) :
    (Instr.rxDetectSignOn b).inContext (context s) = true ↔ s.state = .idle ∧ s.mode = .undetermined := by
  simp only [Instr.inContext, Bool.and_eq_true, decide_eq_true_eq]; rfl

theorem inContext_rxDetectStart (b : Byte) :
    (Instr.rxDetectStart b).inContext (context s) = true ↔ s.state = .idle ∧ s.mode = .undetermined := by
  simp only [Instr.inContext, Bool.and_eq_true, decide_eq_true_eq]; rfl

theorem inContext_rxDetectFail (b : Byte) :
    (Instr.rxDetectFail b).inContext (context s) = true ↔ s.state = .idle ∧ s.mode = .undetermined := by
  simp only [Instr.inContext, Bool.and_eq_true, decide_eq_true_eq]; rfl

theorem inContext_rxAStart (b : Byte) :
    (Instr.rxAStart b).inContext (context s) = true ↔ s.state = .idle ∧ s.mode = .protocolA := by
  simp only [Instr.inContext, Bool.and_eq_true, decide_eq_true_eq]; rfl

theorem inContext_rxABadStart (b : Byte) :
    (Instr.rxABadStart b).inContext (context s) = true ↔ s.state = .idle ∧ s.mode = .protocolA := by
  simp only [Instr.inContext, Bool.and_eq_true, decide_eq_true_eq]; rfl

theorem inContext_rxAToken (b : Byte) :
    (Instr.rxAToken b).inContext (context s) = true ↔ s.state = .readingHeader ∧ s.bytesRead = 4 := by
  simp only [Instr.inContext, Bool.and_eq_true, decide_eq_true_eq]; rfl

theorem inContext_rxALength (len : Half) :
    (Instr.rxALength len).inContext (context s) = true ↔ s.state = .readingHeader ∧ s.bytesRead = 4 := by
  simp only [Instr.inContext, Bool.and_eq_true, decide_eq_true_eq]; rfl

theorem inContext_rxBExt (b : Byte) :
    (Instr.rxBExt b).inContext (context s) = true ↔ s.state = .idle ∧ s.mode = .protocolB := by
  simp only [Instr.inContext, Bool.and_eq_true, decide_eq_true_eq]; rfl

theorem inContext_rxBTable (b : Byte) :
    (Instr.rxBTable b).inContext (context s) = true ↔ s.state = .idle ∧ s.mode = .protocolB := by
  simp only [Instr.inContext, Bool.and_eq_true, decide_eq_true_eq]; rfl

theorem inContext_rxBUnresolved (b : Byte) :
    (Instr.rxBUnresolved b).inContext (context s) = true ↔ s.state = .idle ∧ s.mode = .protocolB := by
  simp only [Instr.inContext, Bool.and_eq_true, decide_eq_true_eq]; rfl

/-- Every instruction is an operation: it has a next state only in a ready state. -/
theorem exec_isOperation (i : Instr) : ∃ body, exec i s = operation s body := by
  cases i
  case poll v b => exact ⟨_, exec_poll s v b⟩
  case ensure r => exact ⟨_, exec_ensure s r⟩
  case send a b => exact ⟨_, exec_send s a b⟩
  case bufRd a => exact ⟨_, exec_bufRd s a⟩
  case bufWr d a => exact ⟨_, exec_bufWr s d a⟩
  case getSize => exact ⟨_, exec_getSize s⟩
  case reservedOp67 l => exact ⟨_, exec_reservedOp67 s l⟩
  case reservedOp815 l => exact ⟨_, exec_reservedOp815 s l⟩
  case reservedBits w => exact ⟨_, exec_reservedBits s w⟩
  case reset => exact ⟨_, exec_reset s⟩
  case rxDetectSignOn b => exact ⟨_, (exec_rxDetectSignOn s b).trans (rxRow_eq ..)⟩
  case rxDetectStart b => exact ⟨_, (exec_rxDetectStart s b).trans (rxRow_eq ..)⟩
  case rxDetectFail b => exact ⟨_, (exec_rxDetectFail s b).trans (rxRow_eq ..)⟩
  case rxAStart b => exact ⟨_, (exec_rxAStart s b).trans (rxRow_eq ..)⟩
  case rxABadStart b => exact ⟨_, (exec_rxABadStart s b).trans (rxRow_eq ..)⟩
  case rxAToken b => exact ⟨_, (exec_rxAToken s b).trans (rxRow_eq ..)⟩
  case rxALength l => exact ⟨_, exec_rxALength s l⟩
  case rxBExt b => exact ⟨_, (exec_rxBExt s b).trans (rxRow_eq ..)⟩
  case rxBTable b => exact ⟨_, (exec_rxBTable s b).trans (rxRow_eq ..)⟩
  case rxBUnresolved b => exact ⟨_, (exec_rxBUnresolved s b).trans (rxRow_eq ..)⟩
  case wireAFrame q body ck => exact ⟨_, exec_wireAFrame s q body ck⟩
  case wireBFrame c p => exact ⟨_, exec_wireBFrame s c p⟩

/-! ### What the invariant says of a parser that can take a byte -/

/-- Outside Complete the target is not reached. -/
theorem Inv.belowTarget {s : State} (h : Inv s) (hs : s.state ≠ .complete) : s.bytesRead < s.bytesWanted := by
  cases hst : s.state with
  | idle => obtain ⟨h1, h2, -⟩ := h.v2 hst; rw [h1, h2]; decide
  | readingHeader => obtain ⟨-, h2, -, h4, -⟩ := h.v4 hst; bv_omega
  | readingBody => exact (h.v5 hst).2
  | complete => exact absurd hst hs

/-- Outside Complete the store index is inside the frame buffer (20_memory.md R59). -/
theorem Inv.room {s : State} (h : Inv s) (hs : s.state ≠ .complete) : s.bytesRead.toNat < s.cfg.cap := by
  have h1 := h.belowTarget hs
  have h2 := h.v1.2
  bv_omega

/-- The invariant does not depend on what the last operation returned or transmitted. -/
theorem Inv.startOp {s : State} (h : Inv s) : Inv (startOp s) :=
  ⟨h.cfgOk, h.v1, h.v2, h.v3, h.v4, h.v5, h.v6, h.v7, h.v8, h.frameIdle, h.bufForm, h.bufBelow⟩

end Sys2Proof.Machine
end

