-- ==== Sys2Proof/Laws/Fetch.lean ====
section
/-! SUPPORT. What settling an input does to the outcome of its operation and to the port: the bytes offered stay in stream
order, and exactly the consumed ones are taken off. -/

namespace Sys2Proof.Machine

/-- Taking the client's next input out of a port leaves the offered bytes as they are. -/
theorem nextOfClient_spec {port p : List Input} {c : Input} (h : nextOfClient port = some (c, p)) :
    fromClient c = true ∧ offered p = offered port := by
  induction port generalizing p with
  | nil => cases h
  | cons inp rest ih =>
    simp only [nextOfClient] at h
    split at h
    · rename_i hc
      cases h
      exact ⟨hc, by cases c <;> first | rfl | cases hc⟩
    · obtain ⟨⟨c', p'⟩, hq, he⟩ := Option.map_eq_some_iff.mp h
      cases he
      obtain ⟨h1, h2⟩ := ih hq
      exact ⟨h1, by simp only [offered, h2]⟩

/-- An input offered again stands ahead of every other received byte. -/
theorem offered_offerAgain (inp : Input) (port : List Input) :
    offered (offerAgain inp port) = offeredBy inp ++ offered port := by
  unfold offerAgain
  split
  · rfl
  · rename_i c p h
    obtain ⟨hc, hp⟩ := nextOfClient_spec h
    cases c <;> simp_all [offered, offeredBy, fromClient]

/-- What is left of an input: nothing where all its bytes were consumed, else the bytes that were not. -/
theorem leftOf_spec (n : Nat) (inp : Input) :
    (leftOf n inp = none ∧ (offeredBy inp).length ≤ n) ∨
      ∃ l, leftOf n inp = some l ∧ offeredBy l = (offeredBy inp).drop n ∧ n < (offeredBy inp).length := by
  have one : ∀ (l : Input) (b : Byte), offeredBy l = [b] →
      ((if n = 0 then some l else none) = none ∧ (offeredBy l).length ≤ n) ∨
        ∃ k, (if n = 0 then some l else none) = some k ∧ offeredBy k = (offeredBy l).drop n ∧
          n < (offeredBy l).length := by
    intro l b hl
    by_cases hn : n = 0
    · exact .inr ⟨l, if_pos hn, by rw [hn, List.drop_zero], by rw [hl, List.length_singleton]; omega⟩
    · exact .inl ⟨if_neg hn, by rw [hl, List.length_singleton]; omega⟩
  cases inp with
  | request w => exact .inl ⟨rfl, Nat.zero_le n⟩
  | reset => exact .inl ⟨rfl, Nat.zero_le n⟩
  | rxByte b => exact one (.rxByte b) b rfl
  | rxLength len => exact one (.rxLength len) Config.token rfl
  | wire bs =>
    by_cases hn : bs.length ≤ n
    · exact .inl ⟨if_pos hn, hn⟩
    · exact .inr ⟨.wire (bs.drop n), if_neg hn, rfl, Nat.lt_of_not_le hn⟩

/-- Exactly the consumed bytes are taken off what the port offers. -/
theorem offered_portAfter (inp : Input) (n : Nat) (port : List Input) :
    offered (portAfter inp n port) = (offeredBy inp).drop n ++ offered port := by
  unfold portAfter
  rcases leftOf_spec n inp with ⟨h, hn⟩ | ⟨l, h, hl, -⟩ <;> rw [h]
  · rw [List.drop_eq_nil_of_le hn, List.nil_append]
  · rw [← hl]
    show offered (if n = 0 then offerAgain l port else l :: port) = _
    split
    · exact offered_offerAgain l port
    · rfl

/-- Of an input whose bytes were all consumed nothing is left. -/
theorem portAfter_all (inp : Input) (n : Nat) (port : List Input) (hn : (offeredBy inp).length ≤ n) :
    portAfter inp n port = port := by
  unfold portAfter
  rcases leftOf_spec n inp with ⟨h, -⟩ | ⟨l, -, -, hlt⟩
  · rw [h]
  · omega

/-- The operation of an input of the client has its own outcome. -/
theorem settle_fromClient {inp : Input} (h : fromClient inp = true) (s : State)
    (o : Host.Outcome State Fault Refusal) : settle inp s o = o := by
  cases inp <;> first | (cases o <;> rfl) | cases h

/-- Settling changes the port of a next state and nothing else. -/
theorem settle_next {inp : Input} {s t : State} {o : Host.Outcome State Fault Refusal} (h : settle inp s o = .next t) :
    ∃ u, o = .next u ∧ t = withPort (portAfter inp (u.rxStream.length - s.rxStream.length) u.port) u := by
  cases o with
  | next u => exact ⟨u, rfl, (Host.Outcome.next.inj h).symm⟩
  | fault r => cases h
  | refused r => cases h

theorem operationOf_ok {x : RxContext} {inp : Input} {i : Instr} (h : decodeInput x inp = .ok i) :
    operationOf x inp = i := by
  rw [operationOf, h]

theorem operationOf_error {x : RxContext} {inp : Input} {e : FrameError} (h : decodeInput x inp = .error e) :
    operationOf x inp = firstOfBurst x inp := by
  rw [operationOf, h]

theorem step_of_port_nil {s : State} (h : s.port = []) : step s = waitForInput s := by
  simp only [step, fetch, h]

theorem step_of_port_cons {s : State} {inp : Input} {rest : List Input} (h : s.port = inp :: rest) :
    step s = settle inp s (exec (operationOf (context s) inp) (withPort rest s)) := by
  simp only [step, fetch, h]

/-- Everything a step with a next state does: it waits, or it runs the operation of the next input and settles that input. -/
theorem step_next {s t : State} (h : step s = .next t) :
    (s.port = [] ∧ Ready s ∧ t = s) ∨
    ∃ inp rest u, s.port = inp :: rest ∧ exec (operationOf (context s) inp) (withPort rest s) = .next u ∧
      t = withPort (portAfter inp (u.rxStream.length - s.rxStream.length) u.port) u := by
  cases hp : s.port with
  | nil =>
    rw [step_of_port_nil hp] at h
    obtain ⟨hr, ht⟩ := ifReady_next h
    exact .inl ⟨rfl, hr, (Host.Outcome.next.inj ht).symm⟩
  | cons inp rest =>
    rw [step_of_port_cons hp] at h
    obtain ⟨u, hu, ht⟩ := settle_next h
    exact .inr ⟨inp, rest, u, rfl, hu, ht⟩

/-- Every step begins with the check that comes before every operation. -/
theorem step_isOperation (s : State) : ∃ o : Host.Outcome State Fault Refusal, step s = ifReady s o := by
  cases hp : s.port with
  | nil => exact ⟨_, step_of_port_nil hp⟩
  | cons inp rest =>
    obtain ⟨body, hb⟩ := exec_isOperation (withPort rest s) (operationOf (context s) inp)
    refine ⟨settle inp s (body (startOp (withPort rest s))), ?_⟩
    rw [step_of_port_cons hp, hb]
    show settle inp s (ifReady (withPort rest s) _) = _
    unfold ifReady
    rw [withPort_cfg, withPort_fault]
    split
    · split <;> rfl
    · rfl

end Sys2Proof.Machine
end

