-- ==== Sys2Proof/Laws/Words.lean ====
section
/-! SUPPORT. The bits and the value of each word that is put together from fields. -/

namespace Sys2Proof

theorem toNat_append_add {m n : Nat} (x : BitVec m) (y : BitVec n) : (x ++ y).toNat = x.toNat * 2 ^ n + y.toNat := by
  rw [BitVec.toNat_append, ← Nat.shiftLeft_add_eq_or_of_lt y.isLt, Nat.shiftLeft_eq]

theorem ensureRequest_toNat (req : Half) : (ensureRequest req).toNat = 0x10000000 + req.toNat :=
  toNat_append_add 0x1000#16 req

theorem bufRdRequest_toNat (a : Half) : (bufRdRequest a).toNat = 0x30000000 + a.toNat :=
  toNat_append_add 0x3000#16 a

theorem pollRequest_toNat (v : Bool) (d : Byte) : (pollRequest v d).toNat = v.toNat * 256 + d.toNat := by
  refine (toNat_append_add (0#23 ++ BitVec.ofBool v) d).trans ?_
  rw [toNat_append_add 0#23 (BitVec.ofBool v)]
  cases v <;> simp

theorem sendRequest_toNat (st : Byte) (n : Half) :
    (sendRequest st n).toNat = 0x20000000 + st.toNat * 65536 + n.toNat := by
  refine (toNat_append_add (0x20#8 ++ st) n).trans ?_
  rw [toNat_append_add 0x20#8 st]
  simp; omega

theorem bufWrRequest_toNat (d : Byte) (a : Half) :
    (bufWrRequest d a).toNat = 0x40000000 + d.toNat * 65536 + a.toNat := by
  refine (toNat_append_add (0x40#8 ++ d) a).trans ?_
  rw [toNat_append_add 0x40#8 d]
  simp; omega

theorem reservedOp67Request_toNat (l : BitVec 29) : (reservedOp67Request l).toNat = 0x60000000 + l.toNat :=
  toNat_append_add 3#3 l

theorem reservedOp815Request_toNat (l : BitVec 31) : (reservedOp815Request l).toNat = 0x80000000 + l.toNat :=
  toNat_append_add 1#1 l

theorem be16_toNat (h l : Byte) : (be16 h l).toNat = 256 * h.toNat + l.toNat :=
  (toNat_append_add h l).trans (by omega)

/-- A word whose value is below `2 ^ n` once the bits of `v` above them are taken off has none of the mask's bits, where the
mask lies between bit `n` and the lowest bit of `v`. -/
theorem and_eq_zero_of_shift {w : Word} {lo hi : Nat} (hw : (w.toNat / 2 ^ lo) % 2 ^ (hi - lo) = 0) (hlh : lo ≤ hi)
    {mask : Word} (hm : ∀ i < 32, mask.getLsbD i = true → lo ≤ i ∧ i < hi) : w &&& mask = 0 := by
  apply BitVec.eq_of_getLsbD_eq
  intro i hi32
  simp only [BitVec.getLsbD_and]
  by_cases h : mask.getLsbD i = true
  · obtain ⟨h1, h2⟩ := hm i hi32 h
    have hbit : ((w.toNat / 2 ^ lo) % 2 ^ (hi - lo)).testBit (i - lo) = false := by rw [hw]; simp
    rw [Nat.testBit_mod_two_pow, Nat.testBit_div_two_pow] at hbit
    have hlt : i - lo < hi - lo := by omega
    rw [show i - lo + lo = i by omega] at hbit
    simp only [hlt, decide_true, Bool.true_and] at hbit
    simp [BitVec.getLsbD, hbit]
  · simp [Bool.eq_false_iff.2 h]

end Sys2Proof

namespace Sys2Proof.Machine

theorem pollWord_toNat (c : Bool) (k : PollKind) :
    (pollWord c k).toNat = c.toNat * 1024 + (pollKindCode k).toNat * 256 + (pollCodeField k).toNat := by
  refine (toNat_append_add (0#21 ++ BitVec.ofBool c ++ pollKindCode k) (pollCodeField k)).trans ?_
  rw [toNat_append_add (0#21 ++ BitVec.ofBool c) (pollKindCode k), toNat_append_add 0#21 (BitVec.ofBool c)]
  cases c with
  | false => simp
  | true => simp; omega

theorem byteWord_toNat (b : Byte) : (byteWord b).toNat = b.toNat := (toNat_append_add 0#24 b).trans (by simp)

theorem sizeWord_toNat (n : Half) : (sizeWord n).toNat = n.toNat := (toNat_append_add 0#16 n).trans (by simp)

end Sys2Proof.Machine
end

