-- ==== Sys2Proof/Laws/PerInstr.lean ====
section
/-! SUPPORT. Per instruction: the fixed bits of its row of spec/opcode_table.json. -/

namespace Sys2Proof.Laws.RowBits

/-- The mask and match columns of a row, where the table gives them as numbers of a request word. -/
def tableRow : Instr → Option (Word × Word)
  | .poll _ _ => some (0xFFFFFE00, 0x00000000)
  | .ensure _ => some (0xFFFF0000, 0x10000000)
  | .send _ _ => some (0xFF000000, 0x20000000)
  | .bufRd _ => some (0xFFFF0000, 0x30000000)
  | .bufWr _ _ => some (0xFF000000, 0x40000000)
  | .getSize => some (0xFFFFFFFF, 0x50000000)
  | .reservedOp67 _ => some (0xE0000000, 0x60000000)
  | .reservedOp815 _ => some (0x80000000, 0x80000000)
  | .reservedBits _ => none
  | .reset => none
  | .rxDetectSignOn _ => none
  | .rxDetectStart _ => none
  | .rxDetectFail _ => none
  | .rxAStart _ => none
  | .rxABadStart _ => none
  | .rxAToken _ => none
  | .rxALength _ => none
  | .rxBExt _ => none
  | .rxBTable _ => none
  | .rxBUnresolved _ => none
  | .wireAFrame _ _ _ => none
  | .wireBFrame _ _ => none

/-- The word of an instruction has the fixed bits of its row. -/
def Statement (i : Instr) : Prop := ∀ w m v, encode i = .request w → tableRow i = some (m, v) → w &&& m = v

/-- The fixed bits of a word whose low `lo` bits are free. -/
theorem fixed_bits (w : Word) (lo v : Nat) (hlo : lo ≤ 32) (h : w.toNat / 2 ^ lo = v) :
    w &&& BitVec.ofNat 32 (2 ^ 32 - 2 ^ lo) = BitVec.ofNat 32 (v * 2 ^ lo) := by
  apply BitVec.eq_of_getLsbD_eq
  intro i hi
  have hm : (2 ^ 32 - 2 ^ lo).testBit i = decide (lo ≤ i) := by
    have := Nat.testBit_two_pow_sub_succ (x := 2 ^ lo - 1) (n := 32) (by
      have : 2 ^ lo ≤ 2 ^ 32 := Nat.pow_le_pow_right (by decide) hlo
      have := Nat.two_pow_pos lo
      omega) i
    rw [Nat.sub_add_cancel (Nat.two_pow_pos lo)] at this
    rw [this, Nat.testBit_two_pow_sub_one]
    by_cases hl : lo ≤ i
    · simp [hi, hl]
    · simp [hi, hl]
      omega
  subst h
  simp only [BitVec.getLsbD_and, BitVec.getLsbD_ofNat, hi, decide_true, Bool.true_and, hm, Nat.testBit_mul_two_pow]
  by_cases hl : lo ≤ i
  · simp [hl, BitVec.getLsbD, Nat.testBit_div_two_pow]
  · simp [hl]

theorem poll (v : Bool) (d : Byte) : Statement (.poll v d) := by
  rintro _ _ _ ⟨⟩ ⟨⟩
  have := d.isLt
  have := v.toNat_le
  exact fixed_bits _ 9 0 (by decide) (by rw [pollRequest_toNat]; omega)

theorem ensure (r : Half) : Statement (.ensure r) := by
  rintro _ _ _ ⟨⟩ ⟨⟩
  have := r.isLt
  exact fixed_bits _ 16 0x1000 (by decide) (by rw [ensureRequest_toNat]; omega)

theorem send (st : Byte) (n : Half) : Statement (.send st n) := by
  rintro _ _ _ ⟨⟩ ⟨⟩
  have := st.isLt
  have := n.isLt
  exact fixed_bits _ 24 0x20 (by decide) (by rw [sendRequest_toNat]; omega)

theorem bufRd (a : Half) : Statement (.bufRd a) := by
  rintro _ _ _ ⟨⟩ ⟨⟩
  have := a.isLt
  exact fixed_bits _ 16 0x3000 (by decide) (by rw [bufRdRequest_toNat]; omega)

theorem bufWr (d : Byte) (a : Half) : Statement (.bufWr d a) := by
  rintro _ _ _ ⟨⟩ ⟨⟩
  have := d.isLt
  have := a.isLt
  exact fixed_bits _ 24 0x40 (by decide) (by rw [bufWrRequest_toNat]; omega)

theorem getSize : Statement .getSize := by
  rintro _ _ _ ⟨⟩ ⟨⟩
  decide

theorem reservedOp67 (l : BitVec 29) : Statement (.reservedOp67 l) := by
  rintro _ _ _ ⟨⟩ ⟨⟩
  have := l.isLt
  exact fixed_bits _ 29 0x3 (by decide) (by rw [reservedOp67Request_toNat]; omega)

theorem reservedOp815 (l : BitVec 31) : Statement (.reservedOp815 l) := by
  rintro _ _ _ ⟨⟩ ⟨⟩
  have := l.isLt
  exact fixed_bits _ 31 0x1 (by decide) (by rw [reservedOp815Request_toNat]; omega)

theorem reservedBits (w : Word) : Statement (.reservedBits w) := by rintro _ _ _ _ ⟨⟩

theorem reset : Statement .reset := by rintro _ _ _ _ ⟨⟩

theorem rxDetectSignOn (b : Byte) : Statement (.rxDetectSignOn b) := by rintro _ _ _ _ ⟨⟩

theorem rxDetectStart (b : Byte) : Statement (.rxDetectStart b) := by rintro _ _ _ _ ⟨⟩

theorem rxDetectFail (b : Byte) : Statement (.rxDetectFail b) := by rintro _ _ _ _ ⟨⟩

theorem rxAStart (b : Byte) : Statement (.rxAStart b) := by rintro _ _ _ _ ⟨⟩

theorem rxABadStart (b : Byte) : Statement (.rxABadStart b) := by rintro _ _ _ _ ⟨⟩

theorem rxAToken (b : Byte) : Statement (.rxAToken b) := by rintro _ _ _ _ ⟨⟩

theorem rxALength (len : Half) : Statement (.rxALength len) := by rintro _ _ _ _ ⟨⟩

theorem rxBExt (b : Byte) : Statement (.rxBExt b) := by rintro _ _ _ _ ⟨⟩

theorem rxBTable (b : Byte) : Statement (.rxBTable b) := by rintro _ _ _ _ ⟨⟩

theorem rxBUnresolved (b : Byte) : Statement (.rxBUnresolved b) := by rintro _ _ _ _ ⟨⟩

theorem wireAFrame (q : Byte) (body : List Byte) (ck : Byte) : Statement (.wireAFrame q body ck) := by rintro _ _ _ _ ⟨⟩

theorem wireBFrame (c : Byte) (ps : List Byte) : Statement (.wireBFrame c ps) := by rintro _ _ _ _ ⟨⟩

end Sys2Proof.Laws.RowBits
end

