-- ==== Sys2Proof/Tests/Slice0.lean ====
section
/-! SUPPORT. Tests whose expected values come from 95_test_vectors.md or are worked out by hand from the encodings, and a
witness for the hypotheses of each statement. -/

namespace Sys2Proof.Tests

open Sys2Proof.Machine

/-! ### Helpers -/

/-- Whether the outcome is a next state with the property. -/
def nextWith (o : Host.Outcome State Fault Refusal) (p : State → Bool) : Bool :=
  match o with
  | .next t => p t
  | .fault _ => false
  | .refused _ => false

theorem nextWith_spec {o : Host.Outcome State Fault Refusal} {p : State → Bool} (h : nextWith o p = true) :
    ∃ t, o = .next t ∧ p t = true := by
  cases o with
  | next t => exact ⟨t, rfl, h⟩
  | fault r => cases h
  | refused r => cases h

/-- A context as 95_test_vectors.md section 0 writes it: mode, state, br, bw, ck, seq, bs. -/
abbrev Ctx := Mode × ParserState × Half × Half × Byte × Byte × Half

/-- The context of a state. -/
def ctx (t : State) : Ctx := (t.mode, t.state, t.bytesRead, t.bytesWanted, t.cksum, t.seq, t.bodySize)

/-- A state under TC with a given context, frame buffer from index 0 up, and consumed bytes of the frame. -/
def mk (c : Ctx) (bytes frame : List Byte) : State :=
  { State.powerUp Config.tc with
    mode := c.1, state := c.2.1, bytesRead := c.2.2.1, bytesWanted := c.2.2.2.1, cksum := c.2.2.2.2.1
    seq := c.2.2.2.2.2.1, bodySize := c.2.2.2.2.2.2
    buf := (bytes.zipIdx).filterMap fun p => if p.1 = 0 then none else some (p.2, p.1)
    rxFrame := frame, rxStream := frame }

/-- "Reset" of 95_test_vectors.md. -/
def atReset : State := mk (.undetermined, .idle, 0, 1, 0, 0, 0) [] []

/-- "After L1-A" of 95_test_vectors.md section 2. -/
def afterL1A : State :=
  mk (.protocolA, .complete, 3, 3, 0, 5, 2) [0x10, 0x20, 0x22, 0x02, 0x0E] [0x1B, 5, 0, 2, 0x0E, 0x10, 0x20, 0x22]

/-- After step 7 of L1-A. -/
def lastByteOfL1A : State :=
  mk (.protocolA, .readingBody, 2, 3, 0x22, 5, 0) [0x10, 0x20, 0x00, 0x02, 0x0E] [0x1B, 5, 0, 2, 0x0E, 0x10, 0x20]

/-- After step 5 of L1-A. -/
def firstBodyByteOfL1A : State :=
  mk (.protocolA, .readingBody, 0, 3, 0x12, 5, 0) [0x1B, 5, 0x00, 0x02, 0x0E] [0x1B, 5, 0, 2, 0x0E]

/-- An idle parser in ProtocolA, after L1-A and SEND 0x00, 2. -/
def idleA : State := mk (.protocolA, .idle, 0, 1, 0, 5, 2) [0x10, 0x00, 0x22, 0x02, 0x0E] []

/-- "After sign-on" of 95_test_vectors.md section 2. -/
def signedOn : State := mk (.protocolB, .idle, 0, 1, 0, 0, 0) [0x30] []

/-- After sign-on, FEED 0x45, 0x04. -/
def extendedDone : State := mk (.protocolB, .complete, 2, 2, 0x41, 0, 1) [0x45, 0x04] [0x45, 0x04]

/-- After sign-on, FEED 0x33, 0xAA. -/
def bodyB : State := mk (.protocolB, .readingBody, 2, 5, 0x99, 0, 0) [0x33, 0xAA] [0x33, 0xAA]

/-- Four header bytes with sequence number q and length bytes h, l. -/
def headerOf (q h l : Byte) : State :=
  mk (.protocolA, .readingHeader, 4, 5, 0x1B ^^^ q ^^^ h ^^^ l, 0, 0) [0x1B, q, h, l] [0x1B, q, h, l]

/-- A faulted state. -/
def faulted : State := { atReset with fault := some ⟨.ensurePhase, 0x10000003⟩ }

/-- TC with SIGN_ON = START, which W1 forbids. -/
def badCfg : Cfg := { Config.tc with signOn := 0x1B }

/-- "Reset" under TC with CMD_LEN[0] = 0, as V-PO-15 has it. -/
def atResetNoSignOnLength : State := { atReset with cfg := { Config.tc with cmdLen := [0] } }

/-- A state with inputs in its port. -/
def facing (p : List Input) (s : State) : State := { s with port := p }

/-! ### Well-formedness -/

theorem test_wf_configuration :
    Config.tc.wf = true ∧ badCfg.wf = false ∧ ({ Config.tc with ext1 := 0x45 } : Cfg).wf = false ∧
    ({ Config.tc with maxBody := 65530 } : Cfg).wf = false ∧ ({ Config.tc with maxBody := 65529 } : Cfg).wf = true ∧
    ({ Config.tc with tblBase := 0xF9 } : Cfg).wf = false ∧ ({ Config.tc with tblBase := 0xF8 } : Cfg).wf = true ∧
    ({ Config.tc with maxBody := 0, cmdLen := [7] } : Cfg).wf = false ∧
    ({ Config.tc with maxBody := 0, cmdLen := [6] } : Cfg).wf = true := by decide

theorem test_wf_refuses_ill_formed :
    (Instr.reservedBits 0x00000100).wf Config.tc = false ∧ (Instr.reservedBits 0x60000001).wf Config.tc = false ∧
    (Instr.rxDetectSignOn 0x31).wf Config.tc = false ∧ (Instr.rxDetectStart 0x1C).wf Config.tc = false ∧
    (Instr.rxDetectFail 0x30).wf Config.tc = false ∧ (Instr.rxDetectFail 0x1B).wf Config.tc = false ∧
    (Instr.rxAStart 0x1A).wf Config.tc = false ∧ (Instr.rxABadStart 0x1B).wf Config.tc = false ∧
    (Instr.rxBExt 0x46).wf Config.tc = false ∧ (Instr.rxBTable 0x45).wf Config.tc = false ∧
    (Instr.rxBTable 0x32).wf Config.tc = false ∧ (Instr.rxBTable 0x38).wf Config.tc = false ∧
    (Instr.rxBUnresolved 0x57).wf Config.tc = false ∧ (Instr.rxBUnresolved 0x30).wf Config.tc = false ∧
    (Instr.wireBFrame 0x31 []).wf Config.tc = false ∧ (Instr.wireBFrame 0x32 []).wf Config.tc = false ∧
    (Instr.wireBFrame 0x45 [1, 2]).wf Config.tc = false := by decide

theorem test_wf_refuses_long_body : (Instr.wireAFrame 0 (List.replicate (2 ^ 16) 0) 0).wf Config.tc = false := by
  simp only [Instr.wf, List.length_replicate]
  decide

theorem test_wf_accepts :
    (Instr.reservedBits 0x00000200).wf Config.tc = true ∧ (Instr.rxDetectSignOn 0x30).wf Config.tc = true ∧
    (Instr.rxDetectFail 0x00).wf Config.tc = true ∧ (Instr.rxBExt 0x57).wf Config.tc = true ∧
    (Instr.rxBTable 0x33).wf Config.tc = true ∧ (Instr.rxBUnresolved 0x32).wf Config.tc = true ∧
    (Instr.wireBFrame 0x33 [0, 0, 0, 0]).wf Config.tc = true ∧
    (Instr.wireBFrame 0x45 [4]).wf Config.tc = true := by decide

theorem test_inContext :
    (Instr.rxDetectFail 0).inContext (context atReset) = true ∧ (Instr.rxAStart 0x1B).inContext (context atReset) = false ∧
    (Instr.rxAToken 0).inContext (context (headerOf 5 0 2)) = true ∧ (Instr.rxAToken 0).inContext (context idleA) = false ∧
    (Instr.wireBFrame 0x31 [0]).inContext (context atReset) = false ∧
    (Instr.wireBFrame 0x30 []).inContext (context atReset) = true ∧
    (Instr.wireAFrame 0 [] 0).inContext (context signedOn) = false := by decide

/-! ### Decoding: words and bytes of 30_encoding.md R71, R82, R78, R79 -/

theorem test_decode_requests :
    decodeWord 0b00000000000000000000000100011011 = .poll true 0x1B ∧
    decodeWord 0b00010000000000000000000000000101 = .ensure 5 ∧
    decodeWord 0b00100000100000000000000000000010 = .send 0x80 2 ∧
    decodeWord 0b00110000000000000000000100011001 = .bufRd 281 ∧
    decodeWord 0b01000000010101010000000000000010 = .bufWr 0x55 2 ∧
    decodeWord 0b01010000000000000000000000000000 = .getSize := by decide

theorem test_decode_reserved :
    decodeWord 0b01110000000000000000000000000001 = .reservedOp67 0x10000001 ∧
    decodeWord 0b10000000000000000000000000000000 = .reservedOp815 0 ∧
    decodeWord 0b00010000000000010000000000000000 = .reservedBits 0x10010000 ∧
    decodeWord 0b00100001000000000000000000000000 = .reservedBits 0x21000000 ∧
    decodeWord 0b00110000000000010000000000000000 = .reservedBits 0x30010000 ∧
    decodeWord 0b01000001000000000000000000000000 = .reservedBits 0x41000000 := by decide

theorem test_decode_bytes_undetermined :
    decodeRxByte (context atReset) 0x30 = .rxDetectSignOn 0x30 ∧
    decodeRxByte (context atReset) 0b00011011 = .rxDetectStart 0x1B ∧
    decodeRxByte (context atReset) 0x0E = .rxDetectFail 0x0E := by decide

theorem test_decode_bytes_protocolA :
    decodeRxByte (context idleA) 0x1B = .rxAStart 0x1B ∧ decodeRxByte (context idleA) 0x30 = .rxABadStart 0x30 ∧
    decodeRxByte (context (headerOf 5 0 2)) 0x0E = .rxAToken 0x0E ∧
    decodeRxByte (context lastByteOfL1A) 0x1B = .poll true 0x1B ∧
    decodeInput (context (headerOf 5 0 2)) (.rxLength 0x0113) = .ok (.rxALength 275) := ⟨by decide, by decide,
      by decide, by decide, rfl⟩

theorem test_decode_bytes_protocolB :
    decodeRxByte (context signedOn) 0x45 = .rxBExt 0x45 ∧ decodeRxByte (context signedOn) 0x57 = .rxBExt 0x57 ∧
    decodeRxByte (context signedOn) 0x30 = .rxBTable 0x30 ∧ decodeRxByte (context signedOn) 0x37 = .rxBUnresolved 0x37 ∧
    decodeRxByte (context signedOn) 0x2F = .rxBUnresolved 0x2F ∧
    decodeRxByte (context signedOn) 0x38 = .rxBUnresolved 0x38 := by decide

/-- The frame of L1-A, byte by byte. -/
theorem test_decode_frameA :
    decodeInput (context atReset) (.wire [0x1B, 0x05, 0x00, 0x02, 0x0E, 0x10, 0x20, 0x22]) =
      .ok (.wireAFrame 5 [0x10, 0x20] 0x22) := by rfl

/-- The sign-on frame of L1-C and the five-byte frame of V-PO-14. -/
theorem test_decode_frameB :
    decodeInput (context atReset) (.wire [0x30]) = .ok (.wireBFrame 0x30 []) ∧
    decodeInput (context signedOn) (.wire [0x33, 0x1B, 0x1B, 0x0E, 0x20]) =
      .ok (.wireBFrame 0x33 [0x1B, 0x1B, 0x0E, 0x20]) := ⟨by rfl, by rfl⟩

theorem test_decode_frame_refused :
    decodeInput (context atReset) (.wire []) = .error .empty ∧
    decodeInput (context atReset) (.wire [0x00]) = .error .badFirstByte ∧
    decodeInput (context idleA) (.wire [0x1B, 5, 0, 2]) = .error .shortHeader ∧
    decodeInput (context idleA) (.wire [0x1B, 5, 0, 2, 0x0F, 0x10]) = .error .badToken ∧
    decodeInput (context idleA) (.wire [0x1B, 5, 0, 2, 0x0E, 0x10]) = .error .wrongLength ∧
    decodeInput (context signedOn) (.wire [0x38]) = .error .unresolvedCode ∧
    decodeInput (context afterL1A) (.wire [0x1B, 5, 0, 0, 0x0E, 0x10]) = .error .notIdle :=
  ⟨by rfl, by rfl, by rfl, by rfl, by rfl, by rfl, by rfl⟩

/-- Rows of the table, from the bits it gives them. -/
theorem test_decodeTableWord :
    decodeTableWord 32 0x0000011B = some (.poll true 0x1B) ∧ decodeTableWord 32 0x10000003 = some (.ensure 3) ∧
    decodeTableWord 32 0x20000000 = some (.send 0 0) ∧ decodeTableWord 32 0x30000000 = some (.bufRd 0) ∧
    decodeTableWord 32 0x40000000 = some (.bufWr 0 0) ∧ decodeTableWord 32 0x50000000 = some .getSize ∧
    decodeTableWord 32 0x60000000 = some (.reservedOp67 0) ∧ decodeTableWord 32 0x80000000 = some (.reservedOp815 0) ∧
    decodeTableWord 0 0 = some .reset ∧ decodeTableWord 8 0x30 = some (.rxDetectSignOn 0x30) ∧
    decodeTableWord 8 0x1B = some (.rxDetectStart 0x1B) ∧ decodeTableWord 8 0x00 = some (.rxDetectFail 0) ∧
    decodeTableWord 16 0x0002 = some (.rxALength 2) := by decide

theorem test_withFetchWord :
    nextWith (step (State.reset.withFetchWord 32 0x0000011B)) (fun t => ctx t = (.protocolA, .readingHeader, 1, 5, 0x1B, 0, 0)) = true ∧
    nextWith (step (State.reset.withFetchWord 32 0x50000000)) (fun t => t.result = some 0) = true ∧
    nextWith (step (State.reset.withFetchWord 8 0x00)) (fun t => t.result = some 0x500) = true ∧
    nextWith (step (State.reset.withFetchWord 0 0)) (fun t => t.mode = .undetermined) = true := by decide

/-! ### One operation each, from 95_test_vectors.md -/

/-- L1-A step 8: the checksum byte completes the frame. -/
theorem test_poll_completes :
    nextWith (exec (.poll true 0x22) lastByteOfL1A) (fun t =>
      t.result = some 0x710 ∧ ctx t = (.protocolA, .complete, 3, 3, 0, 5, 2) ∧ bufBytes t 5 = [0x10, 0x20, 0x22, 0x02, 0x0E]) =
    true := by decide

/-- L1-B: the same frame with its checksum off by one. -/
theorem test_poll_checksum_error :
    nextWith (exec (.poll true 0x23) lastByteOfL1A) (fun t =>
      t.result = some 0x600 ∧ t.txLast = [0x1B, 0x05, 0x00, 0x02, 0x0E, 0x10, 0xC1, 0xC3] ∧
      ctx t = (.protocolA, .idle, 0, 1, 0, 5, 0) ∧ bufBytes t 3 = [0x10, 0xC1, 0x23]) = true := by decide

/-- V-EN-5: ENSURE CAP. -/
theorem test_ensure_cap :
    nextWith (exec (.ensure 281) extendedDone) (fun t =>
      t.result = some 0 ∧ ctx t = (.protocolB, .readingBody, 2, 281, 0x41, 0, 1)) = true := by decide

/-- V-EN-4: ENSURE above CAP. -/
theorem test_ensure_overflow :
    nextWith (exec (.ensure 282) extendedDone) (fun t =>
      t.fault = some ⟨.ensureOverflow, 0x1000011A⟩ ∧ ctx t = (.protocolB, .complete, 2, 2, 0x41, 0, 1)) = true := by decide

/-- V-SE-4. -/
theorem test_send_frame :
    nextWith (exec (.send 0x80 2) afterL1A) (fun t =>
      t.result = some 0 ∧ t.txLast = [0x1B, 0x05, 0x00, 0x02, 0x0E, 0x10, 0x80, 0x82] ∧
      ctx t = (.protocolA, .idle, 0, 1, 0, 5, 2)) = true := by decide

/-- V-SE-2: nothing of the body is sent, and the status is still stored. -/
theorem test_send_no_body :
    nextWith (exec (.send 0x80 0) afterL1A) (fun t =>
      t.txLast = [0x1B, 0x05, 0x00, 0x00, 0x0E, 0x10] ∧ bufByte t 1 = 0x80) = true := by decide

/-- V-BU-1 and V-BU-2. -/
theorem test_bufRd :
    nextWith (exec (.bufRd 3) afterL1A) (fun t => t.result = some 0x02) = true ∧
    nextWith (exec (.bufRd 280) afterL1A) (fun t => t.result = some 0) = true := by decide

/-- V-BU-3 and V-BU-4. -/
theorem test_bufRd_faults :
    nextWith (exec (.bufRd 281) afterL1A) (fun t => t.fault = some ⟨.bufRange, 0x30000119⟩) = true ∧
    nextWith (exec (.bufRd 0) (headerOf 5 0 2)) (fun t => t.fault = some ⟨.bufPhase, 0x30000000⟩) = true := by decide

/-- V-BU-5, its first operation, and V-BU-6. -/
theorem test_bufWr :
    nextWith (exec (.bufWr 0x99 2) afterL1A) (fun t =>
      t.result = some 0 ∧ bufBytes t 4 = [0x10, 0x20, 0x99, 0x02] ∧ ctx t = ctx afterL1A) = true ∧
    nextWith (exec (.bufWr 0x00 0) idleA) (fun t => t.fault = some ⟨.bufPhase, 0x40000000⟩) = true := by decide

/-- L3-1 has GET_SIZE after a body of one byte; here it is L1-A's body of two (V-SE-10). -/
theorem test_getSize : nextWith (exec .getSize afterL1A) (fun t => t.result = some 2) = true := by decide

/-- V-RE-1 to V-RE-4. -/
theorem test_reserved :
    nextWith (exec (.reservedOp67 0) atReset) (fun t => t.fault = some ⟨.refused, 0x60000000⟩) = true ∧
    nextWith (exec (.reservedOp815 0x70000000) atReset) (fun t => t.fault = some ⟨.refused, 0xF0000000⟩) = true ∧
    nextWith (exec (.reservedBits 0x00000200) atReset) (fun t =>
      t.fault = some ⟨.refused, 0x00000200⟩ ∧ t.rxStream = []) = true := by decide

/-- V-RS-1: the mode is forgotten. -/
theorem test_reset :
    nextWith (exec .reset afterL1A) (fun t =>
      t.mode = .undetermined ∧ t.state = .idle ∧ t.bytesRead = 0 ∧ t.bytesWanted = 1 ∧ t.cksum = 0 ∧ t.fault = none) = true := by
  decide

/-- L1-C and, under TC with CMD_LEN[0] = 0, V-PO-15. -/
theorem test_rxDetectSignOn :
    nextWith (exec (.rxDetectSignOn 0x30) atReset) (fun t =>
      t.result = some 0x730 ∧ ctx t = (.protocolB, .complete, 1, 1, 0x30, 0, 0)) = true ∧
    nextWith (exec (.rxDetectSignOn 0x30) atResetNoSignOnLength) (fun t =>
      t.result = some 0x500 ∧ ctx t = (.protocolB, .idle, 0, 1, 0, 0, 0)) = true := by decide

/-- L1-A step 1. -/
theorem test_rxDetectStart :
    nextWith (exec (.rxDetectStart 0x1B) atReset) (fun t =>
      t.result = some 0x400 ∧ ctx t = (.protocolA, .readingHeader, 1, 5, 0x1B, 0, 0)) = true := by decide

/-- L1-D. -/
theorem test_rxDetectFail :
    nextWith (exec (.rxDetectFail 0x00) atReset) (fun t =>
      t.result = some 0x500 ∧ ctx t = (.undetermined, .idle, 0, 1, 0, 0, 0)) = true := by decide

/-- The second frame of P3, and its bad start byte. -/
theorem test_rxAStart :
    nextWith (exec (.rxAStart 0x1B) idleA) (fun t =>
      t.result = some 0x400 ∧ ctx t = (.protocolA, .readingHeader, 1, 5, 0x1B, 5, 2)) = true := by decide

/-- V-PO-9. -/
theorem test_rxABadStart :
    nextWith (exec (.rxABadStart 0x30) idleA) (fun t =>
      t.result = some 0x500 ∧ ctx t = (.protocolA, .idle, 0, 1, 0, 5, 2)) = true := by decide

/-- L1-A step 5, and P4. -/
theorem test_rxAToken :
    nextWith (exec (.rxAToken 0x0E) (headerOf 5 0 2)) (fun t =>
      t.result = some 0x400 ∧ ctx t = (.protocolA, .readingBody, 0, 3, 0x12, 5, 0)) = true ∧
    nextWith (exec (.rxAToken 0x0F) (headerOf 5 0 2)) (fun t =>
      t.result = some 0x500 ∧ ctx t = (.protocolA, .idle, 0, 1, 0, 0, 0)) = true := by decide

/-- V-PO-4 and V-PO-5: MAX_BODY and one more. -/
theorem test_rxALength :
    nextWith (exec (.rxALength 275) (headerOf 9 0x01 0x13)) (fun t =>
      t.result = some 0x400 ∧ ctx t = (.protocolA, .readingBody, 0, 276, 0x0E, 9, 0)) = true ∧
    nextWith (exec (.rxALength 276) (headerOf 5 0x01 0x14)) (fun t =>
      t.result = some 0x500 ∧ ctx t = (.protocolA, .idle, 0, 1, 0, 0, 0)) = true := by decide

/-- L3-2 step 3. -/
theorem test_rxBExt :
    nextWith (exec (.rxBExt 0x57) signedOn) (fun t =>
      t.result = some 0x400 ∧ ctx t = (.protocolB, .readingBody, 1, 2, 0x57, 0, 0)) = true := by decide

/-- V-PO-13 and L1-C's byte in a session that has signed on. -/
theorem test_rxBTable :
    nextWith (exec (.rxBTable 0x31) signedOn) (fun t =>
      t.result = some 0x400 ∧ ctx t = (.protocolB, .readingBody, 1, 2, 0x31, 0, 0)) = true ∧
    nextWith (exec (.rxBTable 0x30) signedOn) (fun t =>
      t.result = some 0x730 ∧ ctx t = (.protocolB, .complete, 1, 1, 0x30, 0, 0)) = true := by decide

/-- V-PO-11 and V-PO-12. -/
theorem test_rxBUnresolved :
    nextWith (exec (.rxBUnresolved 0x32) signedOn) (fun t => t.result = some 0x500) = true ∧
    nextWith (exec (.rxBUnresolved 0x40) signedOn) (fun t =>
      t.result = some 0x500 ∧ ctx t = (.protocolB, .idle, 0, 1, 0, 0, 0)) = true := by decide

/-- L1-A and L1-B as whole frames. -/
theorem test_wireAFrame :
    nextWith (exec (.wireAFrame 5 [0x10, 0x20] 0x22) atReset) (fun t =>
      t.result = some 0x710 ∧ ctx t = ctx afterL1A ∧ bufBytes t 6 = [0x10, 0x20, 0x22, 0x02, 0x0E, 0x00]) = true ∧
    nextWith (exec (.wireAFrame 5 [0x10, 0x20] 0x23) atReset) (fun t =>
      t.result = some 0x600 ∧ t.txLast = [0x1B, 0x05, 0x00, 0x02, 0x0E, 0x10, 0xC1, 0xC3]) = true := by decide

/-- V-PO-14. -/
theorem test_wireBFrame :
    nextWith (exec (.wireBFrame 0x33 [0x1B, 0x1B, 0x0E, 0x20]) signedOn) (fun t =>
      t.result = some 0x733 ∧ ctx t = (.protocolB, .complete, 5, 5, 0x1D, 0, 4) ∧
      bufBytes t 5 = [0x33, 0x1B, 0x1B, 0x0E, 0x20]) = true := by decide

/-- 20_memory.md R51: with a command in flight, bytes on the wire stay to be polled, behind the client's SEND; the SEND
releases the parser, and the next step takes the first of them. -/
theorem test_unconsumed_bytes_stay :
    nextWith (step (facing [.wire [0x1B, 0x05], .rxByte 0x00, .request 0x20800002] afterL1A)) (fun t =>
      t.result = some 0 ∧ t.port = [.request 0x20800002, .wire [0x1B, 0x05], .rxByte 0x00] ∧ t.rxStream = afterL1A.rxStream) =
      true ∧
    nextWith (step (facing [.wire [0x1B, 0x05], .rxByte 0x00] idleA)) (fun t =>
      t.result = some 0x400 ∧ t.port = [.wire [0x05], .rxByte 0x00] ∧ t.rxStream = [0x1B]) = true := by decide

/-- FRAMEA of L3-1 (30_encoding.md R85): the checksum byte is worked out there as 0x10. -/
theorem test_framea :
    assemble (.frameA 0x07 [0x10, 0xAA, 0xBB]) =
      [0x11B, 0x107, 0x100, 0x103, 0x10E, 0x110, 0x1AA, 0x1BB, 0x110].map (fun w => Input.request w) := by decide

/-! ### The invariant in the test states -/

theorem inv_atReset : Machine.Inv atReset := by refine ⟨?_, ?_, ?_, ?_, ?_, ?_, ?_, ?_, ?_, ?_, ?_, ?_⟩ <;> decide

theorem inv_afterL1A : Machine.Inv afterL1A := by refine ⟨?_, ?_, ?_, ?_, ?_, ?_, ?_, ?_, ?_, ?_, ?_, ?_⟩ <;> decide

theorem inv_lastByteOfL1A : Machine.Inv lastByteOfL1A := by
  refine ⟨?_, ?_, ?_, ?_, ?_, ?_, ?_, ?_, ?_, ?_, ?_, ?_⟩ <;> decide

theorem inv_firstBodyByteOfL1A : Machine.Inv firstBodyByteOfL1A := by
  refine ⟨?_, ?_, ?_, ?_, ?_, ?_, ?_, ?_, ?_, ?_, ?_, ?_⟩ <;> decide

theorem inv_idleA : Machine.Inv idleA := by refine ⟨?_, ?_, ?_, ?_, ?_, ?_, ?_, ?_, ?_, ?_, ?_, ?_⟩ <;> decide

theorem inv_signedOn : Machine.Inv signedOn := by refine ⟨?_, ?_, ?_, ?_, ?_, ?_, ?_, ?_, ?_, ?_, ?_, ?_⟩ <;> decide

theorem inv_atResetNoSignOnLength : Machine.Inv atResetNoSignOnLength := by
  refine ⟨?_, ?_, ?_, ?_, ?_, ?_, ?_, ?_, ?_, ?_, ?_, ?_⟩ <;> decide

theorem inv_extendedDone : Machine.Inv extendedDone := by
  refine ⟨?_, ?_, ?_, ?_, ?_, ?_, ?_, ?_, ?_, ?_, ?_, ?_⟩ <;> decide

theorem inv_bodyB : Machine.Inv bodyB := by refine ⟨?_, ?_, ?_, ?_, ?_, ?_, ?_, ?_, ?_, ?_, ?_, ?_⟩ <;> decide

theorem inv_headerOf_maxBody : Machine.Inv (headerOf 9 0x01 0x13) := by
  refine ⟨?_, ?_, ?_, ?_, ?_, ?_, ?_, ?_, ?_, ?_, ?_, ?_⟩ <;> decide

theorem inv_headerOf_tooLong : Machine.Inv (headerOf 5 0x01 0x14) := by
  refine ⟨?_, ?_, ?_, ?_, ?_, ?_, ?_, ?_, ?_, ?_, ?_, ?_⟩ <;> decide

theorem ready_atReset : Ready atReset := ⟨by decide, rfl⟩

theorem ready_afterL1A : Ready afterL1A := ⟨by decide, rfl⟩

theorem ready_extendedDone : Ready extendedDone := ⟨by decide, rfl⟩

theorem ready_bodyB : Ready bodyB := ⟨by decide, rfl⟩

theorem inv_facing (p : List Input) {s : State} (h : Machine.Inv s) : Machine.Inv (facing p s) :=
  ⟨h.cfgOk, h.v1, h.v2, h.v3, h.v4, h.v5, h.v6, h.v7, h.v8, h.frameIdle, h.bufForm, h.bufBelow⟩

/-! ### Witnesses: a state and operands that meet the hypotheses of each statement together -/

theorem witness_DecodeOfEncode :
    Config.resetContext.cfg.wf = true ∧ (Instr.wireAFrame 5 [0x10, 0x20] 0x22).wf Config.resetContext.cfg = true ∧
    (Instr.wireAFrame 5 [0x10, 0x20] 0x22).inContext Config.resetContext = true := by decide

theorem witness_DecodeOfEncode_row :
    (context signedOn).cfg.wf = true ∧ (Instr.rxBUnresolved 0x38).wf (context signedOn).cfg = true ∧
    (Instr.rxBUnresolved 0x38).inContext (context signedOn) = true := by decide

theorem witness_ReceivedByteMapIsTotal : Config.resetContext.cfg.wf = true := by decide

theorem witness_EncodeOfDecodedFrame :
    (∃ i, decodeInput Config.resetContext (.wire [0x1B, 5, 0, 0, 0x0E, 0x10]) = .ok i) ∧
    (∃ i, decodeInput (context signedOn) (.wire [0x45, 0x04]) = .ok i) := ⟨⟨_, rfl⟩, ⟨_, rfl⟩⟩

theorem witness_PowerUpMeetsInvariant : Config.tc.wf = true := by decide

theorem witness_HardResetCompletes : Ready afterL1A := ready_afterL1A

theorem witness_StepKeepsInvariant :
    Machine.Inv (facing [.request 0x122] lastByteOfL1A) ∧
      ∃ t, step (facing [.request 0x122] lastByteOfL1A) = .next t ∧ (decide (t.state = .complete)) = true :=
  ⟨inv_facing _ inv_lastByteOfL1A,
    nextWith_spec (p := fun t => decide (t.state = .complete)) (by decide)⟩

/-- A request, a byte that is consumed, a byte that is not, and an empty port. -/
theorem witness_StepRunsDecodedInstruction :
    (∃ i, (facing [.request 0x50000000] atReset).port = .request 0x50000000 :: [] ∧
      decodeInput (context (facing [.request 0x50000000] atReset)) (.request 0x50000000) = .ok i ∧
      fromClient (.request 0x50000000) = true) ∧
    (∃ i, (facing [.rxByte 0x1B] atReset).port = .rxByte 0x1B :: [] ∧
      decodeInput (context (facing [.rxByte 0x1B] atReset)) (.rxByte 0x1B) = .ok i ∧
      ∃ t, exec i { facing [.rxByte 0x1B] atReset with port := [] } = .next t ∧
        (decide (t.rxStream.length = (facing [.rxByte 0x1B] atReset).rxStream.length + (offeredBy (.rxByte 0x1B)).length)) =
          true) ∧
    (∃ i, (facing [.rxByte 0x1B] afterL1A).port = .rxByte 0x1B :: [] ∧
      decodeInput (context (facing [.rxByte 0x1B] afterL1A)) (.rxByte 0x1B) = .ok i) ∧
    atReset.port = [] ∧ Ready atReset :=
  ⟨⟨_, rfl, rfl, rfl⟩,
    ⟨_, rfl, rfl, nextWith_spec (p := fun t => decide
      (t.rxStream.length = (facing [.rxByte 0x1B] atReset).rxStream.length + (offeredBy (.rxByte 0x1B)).length)) (by decide)⟩,
    ⟨_, rfl, rfl⟩, rfl, ready_atReset⟩

/-- A burst of two bytes, and one of a single byte. -/
theorem witness_BurstIsTakenByteByByte :
    ((facing [.wire [0x00, 0x1B]] atReset).port = .wire (0x00 :: [0x1B]) :: [] ∧
      decodeInput (context (facing [.wire [0x00, 0x1B]] atReset)) (.wire [0x00, 0x1B]) = .error .badFirstByte ∧
      Machine.Inv (facing [.wire [0x00, 0x1B]] atReset) ∧ (facing [.wire [0x00, 0x1B]] atReset).fault = none ∧
      (facing [.wire [0x00, 0x1B]] atReset).state ≠ .complete) ∧
    ((facing [.wire [0x10]] firstBodyByteOfL1A).port = .wire (0x10 :: []) :: [] ∧
      decodeInput (context (facing [.wire [0x10]] firstBodyByteOfL1A)) (.wire [0x10]) = .error .notIdle ∧
      Machine.Inv (facing [.wire [0x10]] firstBodyByteOfL1A) ∧ (facing [.wire [0x10]] firstBodyByteOfL1A).fault = none ∧
      (facing [.wire [0x10]] firstBodyByteOfL1A).state ≠ .complete) :=
  ⟨⟨rfl, rfl, inv_facing _ inv_atReset, rfl, by decide⟩, rfl, rfl, inv_facing _ inv_firstBodyByteOfL1A, rfl, by decide⟩

/-- A step that takes a byte of a burst, and one that takes none. -/
theorem witness_ReceivedBytesAreNeverLost :
    (∃ t, step (facing [.wire [0x00, 0x1B]] atReset) = .next t ∧ (decide (t.port = [.wire [0x1B]])) = true) ∧
    (∃ t, step (facing [.wire [0x00, 0x1B]] afterL1A) = .next t ∧ (decide (t.port = [.wire [0x00, 0x1B]])) = true) ∧
    (∀ w rest, (facing [.wire [0x00, 0x1B]] atReset).port ≠ .request w :: rest) ∧
    ∀ w rest, (facing [.wire [0x00, 0x1B]] afterL1A).port ≠ .request w :: rest :=
  ⟨nextWith_spec (p := fun t => decide (t.port = [.wire [0x1B]])) (by decide),
    nextWith_spec (p := fun t => decide (t.port = [.wire [0x00, 0x1B]])) (by decide),
    fun _ _ h => (Input.noConfusion (List.cons.inj h).1), fun _ _ h => (Input.noConfusion (List.cons.inj h).1)⟩

/-- With no input of the client behind it, and with one behind another received byte. -/
theorem witness_UnconsumedInputIsOfferedAgain :
    (Ready (facing [.rxByte 0x1B, .rxByte 0x05] afterL1A) ∧ (facing [.rxByte 0x1B, .rxByte 0x05] afterL1A).state = .complete ∧
      (facing [.rxByte 0x1B, .rxByte 0x05] afterL1A).port = .rxByte 0x1B :: [.rxByte 0x05] ∧
      offeredBy (.rxByte 0x1B) ≠ [] ∧ ∀ c ∈ [Input.rxByte 0x05], fromClient c = false) ∧
    (Ready (facing [.wire [0x1B, 0x05], .rxByte 0x00, .reset] afterL1A) ∧
      (facing [.wire [0x1B, 0x05], .rxByte 0x00, .reset] afterL1A).state = .complete ∧
      (facing [.wire [0x1B, 0x05], .rxByte 0x00, .reset] afterL1A).port = .wire [0x1B, 0x05] :: ([.rxByte 0x00] ++ .reset :: []) ∧
      offeredBy (.wire [0x1B, 0x05]) ≠ [] ∧ (∀ x ∈ [Input.rxByte 0x00], fromClient x = false) ∧ fromClient .reset = true) :=
  ⟨⟨ready_afterL1A, rfl, rfl, by decide, by decide⟩, ready_afterL1A, rfl, rfl, by decide, by decide, rfl⟩

theorem witness_RecordedFaultIsPermanent :
    faulted.fault = some ⟨.ensurePhase, 0x10000003⟩ ∧ faulted.cfg.wf = true := ⟨rfl, by decide⟩

theorem witness_IllFormedConfigIsRefused : ({ atReset with cfg := badCfg } : State).cfg.wf = false := by decide

theorem witness_ReadyBlockNeverStops : Machine.Inv afterL1A ∧ afterL1A.fault = none := ⟨inv_afterL1A, rfl⟩

theorem witness_ConfigurationIsConstant :
    (∃ t, exec .reset afterL1A = .next t) ∧ ∃ t, exec (.send 0x80 2) afterL1A = .next t ∧ (decide (t.draws = 0)) = true :=
  ⟨⟨_, exec_reset _⟩, nextWith_spec (p := fun t => decide (t.draws = 0)) (by decide)⟩

theorem witness_ModeIsSticky_reset : ∃ t, exec .reset afterL1A = .next t := ⟨_, exec_reset _⟩

theorem witness_ModeIsSticky_kept :
    idleA.mode ≠ .undetermined ∧ ∃ t, exec (.poll true 0x30) idleA = .next t ∧ (decide (t.mode = .protocolA)) = true :=
  ⟨by decide, nextWith_spec (p := fun t => decide (t.mode = .protocolA)) (by decide)⟩

/-- V-SE-8: SEND in Undetermined mode. -/
theorem witness_ModeIsSticky_request :
    encode (.send 0x77 2) = .request 0x20770002 ∧ presented (.send 0x77 2) = none ∧
      ∃ t, exec (.send 0x77 2) atReset = .next t ∧ (decide (t.txLast = [0x00, 0x77])) = true :=
  ⟨by decide, rfl, nextWith_spec (p := fun t => decide (t.txLast = [0x00, 0x77])) (by decide)⟩

/-- By a POLL and by rows of the received-byte map. -/
theorem witness_ModeIsSticky_selected :
    (presented (.poll true 0x30) = some 0x30 ∧
      ∃ t, exec (.poll true 0x30) atReset = .next t ∧ (decide (t.mode ≠ atReset.mode)) = true) ∧
    (presented (.rxDetectSignOn 0x30) = some 0x30 ∧
      ∃ t, exec (.rxDetectSignOn 0x30) atReset = .next t ∧ (decide (t.mode ≠ atReset.mode)) = true) ∧
    (presented (.rxDetectStart 0x1B) = some 0x1B ∧
      ∃ t, exec (.rxDetectStart 0x1B) atReset = .next t ∧ (decide (t.mode ≠ atReset.mode)) = true) :=
  ⟨⟨rfl, nextWith_spec (p := fun t => decide (t.mode ≠ atReset.mode)) (by decide)⟩,
    ⟨rfl, nextWith_spec (p := fun t => decide (t.mode ≠ atReset.mode)) (by decide)⟩,
    rfl, nextWith_spec (p := fun t => decide (t.mode ≠ atReset.mode)) (by decide)⟩

/-- By a frame of each protocol. -/
theorem witness_ModeIsSticky_frame :
    (encode (.wireBFrame 0x30 []) = .wire [0x30] ∧
      ∃ t, exec (.wireBFrame 0x30 []) atReset = .next t ∧ (decide (t.mode ≠ atReset.mode)) = true) ∧
    (encode (.wireAFrame 7 [] 0x12) = .wire [0x1B, 0x07, 0x00, 0x00, 0x0E, 0x12] ∧
      ∃ t, exec (.wireAFrame 7 [] 0x12) atReset = .next t ∧ (decide (t.mode ≠ atReset.mode)) = true) :=
  ⟨⟨by decide, nextWith_spec (p := fun t => decide (t.mode ≠ atReset.mode)) (by decide)⟩,
    by decide, nextWith_spec (p := fun t => decide (t.mode ≠ atReset.mode)) (by decide)⟩

theorem witness_OnlyPollsWriteModeSeqAndBodySize :
    ∃ t, exec (.send 0x80 2) afterL1A = .next t ∧ (decide (t.bodySize = 2)) = true :=
  nextWith_spec (p := fun t => decide (t.bodySize = 2)) (by decide)

theorem witness_StreamsOnlyGrow :
    ∃ t, step (facing [.request 0x20800002] afterL1A) = .next t ∧ (decide (t.txStream.length = 8)) = true :=
  nextWith_spec (p := fun t => decide (t.txStream.length = 8)) (by decide)

theorem witness_OnlySendAndChecksumErrorTransmit :
    (∃ t, exec (decodeWord 0x20800002) afterL1A = .next t ∧ (decide (t.txLast ≠ [])) = true) ∧
    ∃ t, exec (decodeWord 0x123) lastByteOfL1A = .next t ∧ (decide (t.txLast ≠ [])) = true :=
  ⟨nextWith_spec (p := fun t => decide (t.txLast ≠ [])) (by decide),
    nextWith_spec (p := fun t => decide (t.txLast ≠ [])) (by decide)⟩

theorem witness_FaultingOperationChangesNothingElse :
    ∃ t, exec (.ensure 3) atReset = .next t ∧ (decide (t.fault = some ⟨.ensurePhase, 0x10000003⟩)) = true :=
  nextWith_spec (p := fun t => decide (t.fault = some ⟨.ensurePhase, 0x10000003⟩)) (by decide)

theorem witness_PollEarlyReturnChangesNothing :
    (Ready afterL1A ∧ afterL1A.state = .complete) ∧ (Ready atReset ∧ (false : Bool) = false) :=
  ⟨⟨ready_afterL1A, rfl⟩, ready_atReset, rfl⟩

theorem witness_PollBelowTargetTakesByte :
    Machine.Inv firstBodyByteOfL1A ∧ firstBodyByteOfL1A.fault = none ∧ firstBodyByteOfL1A.state ≠ .complete ∧
    firstBodyByteOfL1A.bytesRead + 1 < firstBodyByteOfL1A.bytesWanted :=
  ⟨inv_firstBodyByteOfL1A, rfl, by decide, by decide⟩

theorem witness_PollConsumesAtMostOneByte :
    (∃ t, exec (.poll true 0x22) lastByteOfL1A = .next t ∧ (decide (t.rxStream.length = 8)) = true) ∧
    ∃ t, exec (.poll true 0x22) afterL1A = .next t ∧ (decide (t.rxStream.length = 8)) = true :=
  ⟨nextWith_spec (p := fun t => decide (t.rxStream.length = 8)) (by decide),
    nextWith_spec (p := fun t => decide (t.rxStream.length = 8)) (by decide)⟩

/-- A code without a length, and the byte of V-PO-15, which selects ProtocolB in the same POLL. -/
theorem witness_HeaderErrorIsSilent :
    (Machine.Inv signedOn ∧
      ∃ t, exec (.poll true 0x32) signedOn = .next t ∧ (decide (t.result = some (pollWord true .headerError))) = true) ∧
    (Machine.Inv atResetNoSignOnLength ∧
      ∃ t, exec (.poll true 0x30) atResetNoSignOnLength = .next t ∧
        (decide (t.result = some (pollWord true .headerError) ∧ t.mode = .protocolB)) = true) :=
  ⟨⟨inv_signedOn, nextWith_spec (p := fun t => decide (t.result = some (pollWord true .headerError))) (by decide)⟩,
    inv_atResetNoSignOnLength,
    nextWith_spec (p := fun t => decide (t.result = some (pollWord true .headerError) ∧ t.mode = .protocolB)) (by decide)⟩

theorem witness_DetectionFailure :
    Machine.Inv atReset ∧ atReset.fault = none ∧ atReset.mode = .undetermined ∧ (0x00 : Byte) ≠ atReset.cfg.signOn ∧
    (0x00 : Byte) ≠ 0x1B := ⟨inv_atReset, rfl, rfl, by decide, by decide⟩

theorem witness_StartByteSelectsProtocolA :
    Machine.Inv atReset ∧ atReset.fault = none ∧ atReset.mode = .undetermined := ⟨inv_atReset, rfl, rfl⟩

theorem witness_SignOnByteSelectsProtocolB :
    Machine.Inv atReset ∧ atReset.fault = none ∧ atReset.mode = .undetermined ∧ (0x30 : Byte) = atReset.cfg.signOn :=
  ⟨inv_atReset, rfl, rfl, rfl⟩

theorem witness_FirstByteOfProtocolA :
    Machine.Inv idleA ∧ idleA.fault = none ∧ idleA.state = .idle ∧ idleA.mode = .protocolA ∧ (0x1C : Byte) ≠ 0x1B :=
  ⟨inv_idleA, rfl, rfl, rfl, by decide⟩

theorem witness_ExtendedCodeWaitsForOneMoreByte :
    Machine.Inv signedOn ∧ signedOn.fault = none ∧ signedOn.state = .idle ∧ signedOn.mode = .protocolB ∧
    (0x45 : Byte) = signedOn.cfg.ext0 ∧ (0x57 : Byte) = signedOn.cfg.ext1 := ⟨inv_signedOn, rfl, rfl, rfl, rfl, rfl⟩

/-- The table's entries 1 (completes in the same POLL) and 5 (does not). -/
theorem witness_TableCodeTakesItsLength :
    Machine.Inv signedOn ∧ signedOn.fault = none ∧ signedOn.state = .idle ∧ signedOn.mode = .protocolB ∧
    ((0x30 : Byte) ≠ signedOn.cfg.ext0 ∧ (0x30 : Byte) ≠ signedOn.cfg.ext1 ∧
      signedOn.cfg.tblBase.toNat ≤ (0x30 : Byte).toNat ∧
      signedOn.cfg.cmdLen[(0x30 : Byte).toNat - signedOn.cfg.tblBase.toNat]? = some 1) ∧
    ((0x33 : Byte) ≠ signedOn.cfg.ext0 ∧ (0x33 : Byte) ≠ signedOn.cfg.ext1 ∧
      signedOn.cfg.tblBase.toNat ≤ (0x33 : Byte).toNat ∧
      signedOn.cfg.cmdLen[(0x33 : Byte).toNat - signedOn.cfg.tblBase.toNat]? = some 5 ∧ (5 : Byte) ≠ 0) :=
  ⟨inv_signedOn, rfl, rfl, rfl, by decide, by decide⟩

/-- Below the table, just above it, and an entry 0. -/
theorem witness_UnresolvedCodeIsHeaderError :
    Machine.Inv signedOn ∧ signedOn.fault = none ∧ signedOn.state = .idle ∧ signedOn.mode = .protocolB ∧
    ((0x2F : Byte) ≠ signedOn.cfg.ext0 ∧ (0x2F : Byte) ≠ signedOn.cfg.ext1 ∧
      (0x2F : Byte).toNat < signedOn.cfg.tblBase.toNat) ∧
    ((0x38 : Byte) ≠ signedOn.cfg.ext0 ∧ (0x38 : Byte) ≠ signedOn.cfg.ext1 ∧
      signedOn.cfg.tblBase.toNat + signedOn.cfg.tblSize ≤ (0x38 : Byte).toNat) ∧
    ((0x32 : Byte) ≠ signedOn.cfg.ext0 ∧ (0x32 : Byte) ≠ signedOn.cfg.ext1 ∧
      signedOn.cfg.cmdLen[(0x32 : Byte).toNat - signedOn.cfg.tblBase.toNat]? = some 0) :=
  ⟨inv_signedOn, rfl, rfl, rfl, by decide, by decide, by decide⟩

theorem witness_WrongTokenIsHeaderError :
    Machine.Inv (headerOf 9 0x01 0x13) ∧ (headerOf 9 0x01 0x13).fault = none ∧
    (headerOf 9 0x01 0x13).state = .readingHeader ∧ (headerOf 9 0x01 0x13).bytesRead = 4 ∧ (0x0F : Byte) ≠ 0x0E :=
  ⟨inv_headerOf_maxBody, rfl, rfl, rfl, by decide⟩

/-- A length of MAX_BODY and one of MAX_BODY + 1. -/
theorem witness_HeaderLengthVerdict :
    (Machine.Inv (headerOf 9 0x01 0x13) ∧ (headerOf 9 0x01 0x13).fault = none ∧
      (headerOf 9 0x01 0x13).state = .readingHeader ∧ (headerOf 9 0x01 0x13).bytesRead = 4 ∧
      (275 : Half).toNat = 256 * (bufByte (headerOf 9 0x01 0x13) 2).toNat + (bufByte (headerOf 9 0x01 0x13) 3).toNat) ∧
    (Machine.Inv (headerOf 5 0x01 0x14) ∧ (headerOf 5 0x01 0x14).fault = none ∧
      (headerOf 5 0x01 0x14).state = .readingHeader ∧ (headerOf 5 0x01 0x14).bytesRead = 4 ∧
      (276 : Half).toNat = 256 * (bufByte (headerOf 5 0x01 0x14) 2).toNat + (bufByte (headerOf 5 0x01 0x14) 3).toNat) :=
  ⟨⟨inv_headerOf_maxBody, rfl, rfl, rfl, by decide⟩, inv_headerOf_tooLong, rfl, rfl, rfl, by decide⟩

theorem witness_LastBodyByteCompletes :
    Machine.Inv lastByteOfL1A ∧ lastByteOfL1A.fault = none ∧ lastByteOfL1A.state = .readingBody ∧
    lastByteOfL1A.bytesRead + 1 = lastByteOfL1A.bytesWanted ∧
    (lastByteOfL1A.mode = .protocolA → lastByteOfL1A.cksum ^^^ 0x22 = 0) :=
  ⟨inv_lastByteOfL1A, rfl, rfl, by decide, by decide⟩

theorem witness_ChecksumErrorResponds :
    Machine.Inv lastByteOfL1A ∧ lastByteOfL1A.fault = none ∧ lastByteOfL1A.state = .readingBody ∧
    lastByteOfL1A.bytesRead + 1 = lastByteOfL1A.bytesWanted ∧ lastByteOfL1A.mode = .protocolA ∧
    lastByteOfL1A.cksum ^^^ 0x23 ≠ 0 ∧
    (0x10 : Byte) = (if lastByteOfL1A.bytesRead = 0 then 0x23 else bufByte lastByteOfL1A 0) :=
  ⟨inv_lastByteOfL1A, rfl, rfl, by decide, rfl, by decide, by decide⟩

/-- In ProtocolB two of the three missing bytes and all three; in ProtocolA one of three, and the last one, right and wrong. -/
theorem witness_BodyTakesExactlyTheMissingBytes :
    (Machine.Inv bodyB ∧ bodyB.fault = none ∧ bodyB.state = .readingBody ∧ bodyB.mode = .protocolB ∧
      bodyB.bytesRead.toNat + [0xBB, 0xCC].length ≤ bodyB.bytesWanted.toNat ∧
      bodyB.bytesRead.toNat + ([0xBB, 0xCC, 0x20] : List Byte).length = bodyB.bytesWanted.toNat) ∧
    (Machine.Inv firstBodyByteOfL1A ∧ firstBodyByteOfL1A.fault = none ∧ firstBodyByteOfL1A.state = .readingBody ∧
      firstBodyByteOfL1A.mode = .protocolA ∧
      firstBodyByteOfL1A.bytesRead.toNat + ([0x10] : List Byte).length < firstBodyByteOfL1A.bytesWanted.toNat) ∧
    (Machine.Inv lastByteOfL1A ∧ lastByteOfL1A.fault = none ∧ lastByteOfL1A.state = .readingBody ∧
      lastByteOfL1A.mode = .protocolA ∧
      lastByteOfL1A.bytesRead.toNat + ([0x22] : List Byte).length = lastByteOfL1A.bytesWanted.toNat ∧
      ([0x22] : List Byte).foldl (· ^^^ ·) lastByteOfL1A.cksum = 0 ∧
      ([0x23] : List Byte).foldl (· ^^^ ·) lastByteOfL1A.cksum ≠ 0) :=
  ⟨⟨inv_bodyB, rfl, rfl, rfl, by decide, by decide⟩, ⟨inv_firstBodyByteOfL1A, rfl, rfl, rfl, by decide⟩,
    inv_lastByteOfL1A, rfl, rfl, rfl, by decide, by decide, by decide⟩

/-- A POLL and a SEND. -/
theorem witness_ChecksumIsUnreadInProtocolB :
    bodyB.mode = .protocolB ∧ (∃ t, exec (.poll true 0x20) bodyB = .next t ∧ (decide (t.bytesRead = 3)) = true) ∧
      ∃ t, exec (.send 0x00 2) bodyB = .next t ∧ (decide (t.txLast = [0x33, 0x00])) = true :=
  ⟨rfl, nextWith_spec (p := fun t => decide (t.bytesRead = 3)) (by decide),
    nextWith_spec (p := fun t => decide (t.txLast = [0x33, 0x00])) (by decide)⟩

theorem witness_RowsArePolls : Machine.Inv signedOn := inv_signedOn

theorem witness_AdapterLosesNoByte :
    (∃ t, exec (decodeWord (presentHead [])) atReset = .next t ∧ (decide (t.result = some 0)) = true) ∧
    ∃ t, exec (decodeWord (presentHead [0x1B, 0x05])) atReset = .next t ∧ (decide (t.result = some 0x400)) = true :=
  ⟨nextWith_spec (p := fun t => decide (t.result = some 0)) (by decide),
    nextWith_spec (p := fun t => decide (t.result = some 0x400)) (by decide)⟩

theorem witness_EnsureMetTargetIsNoOp :
    (Ready extendedDone ∧ extendedDone.state = .complete ∧ (2 : Half) ≤ extendedDone.bytesWanted) ∧
    (Ready bodyB ∧ bodyB.state = .readingBody ∧ (0 : Half) ≤ bodyB.bytesWanted) :=
  ⟨⟨ready_extendedDone, rfl, by decide⟩, ready_bodyB, rfl, by decide⟩

/-- One more than the target, and CAP. -/
theorem witness_EnsureRaisesTargetAndReopens :
    Ready extendedDone ∧ extendedDone.state = .complete ∧ extendedDone.bytesWanted < (3 : Half) ∧
    extendedDone.bytesWanted < (281 : Half) ∧ (281 : Half).toNat ≤ extendedDone.cfg.cap :=
  ⟨ready_extendedDone, rfl, by decide, by decide, by decide⟩

theorem witness_EnsureFaults :
    (Ready atReset ∧ atReset.state = .idle) ∧
    (Ready (headerOf 5 0 2) ∧ (headerOf 5 0 2).state = .readingHeader) ∧
    (Ready bodyB ∧ bodyB.state = .readingBody ∧ bodyB.bytesWanted < (282 : Half) ∧ bodyB.cfg.cap < (282 : Half).toNat) :=
  ⟨⟨ready_atReset, rfl⟩, ⟨⟨by decide, rfl⟩, rfl⟩, ready_bodyB, rfl, by decide, by decide⟩

theorem witness_SendInProtocolA :
    Machine.Inv afterL1A ∧ afterL1A.fault = none ∧ afterL1A.mode = .protocolA ∧ (2 : Half).toNat ≤ afterL1A.cfg.cap ∧
    [0x10, 0x80] = (List.range (2 : Half).toNat).map (fun j => if j = 1 then 0x80 else bufByte afterL1A j) :=
  ⟨inv_afterL1A, rfl, rfl, by decide, by decide⟩

theorem witness_SendWithoutEnvelope :
    (Machine.Inv extendedDone ∧ extendedDone.fault = none ∧ extendedDone.mode = .protocolB ∧
      (281 : Half).toNat ≤ extendedDone.cfg.cap) ∧
    (Machine.Inv atReset ∧ atReset.fault = none ∧ atReset.mode = .undetermined ∧ (0 : Half).toNat ≤ atReset.cfg.cap) :=
  ⟨⟨inv_extendedDone, rfl, rfl, by decide⟩, inv_atReset, rfl, rfl, by decide⟩

theorem witness_SendOverflowFaults : Ready afterL1A ∧ afterL1A.cfg.cap < (282 : Half).toNat := ⟨ready_afterL1A, by decide⟩

theorem witness_ResponseIsAWellChecksummedFrame :
    afterL1A.mode = .protocolA ∧ (2 : Half).toNat ≤ afterL1A.cfg.cap ∧
      ∃ t, exec (.send 0x80 2) afterL1A = .next t ∧ (decide (t.txLast.length = 8)) = true :=
  ⟨rfl, by decide, nextWith_spec (p := fun t => decide (t.txLast.length = 8)) (by decide)⟩

theorem witness_PortOperationsComplete :
    Machine.Inv afterL1A ∧ afterL1A.fault = none ∧ Ready afterL1A ∧ afterL1A.state = .complete ∧
    (0 : Half).toNat < afterL1A.cfg.cap ∧ (280 : Half).toNat < afterL1A.cfg.cap :=
  ⟨inv_afterL1A, rfl, ready_afterL1A, rfl, by decide, by decide⟩

theorem witness_PortFaults :
    (Ready atReset ∧ atReset.state ≠ .complete) ∧
    (Ready afterL1A ∧ afterL1A.state = .complete ∧ afterL1A.cfg.cap ≤ (281 : Half).toNat) :=
  ⟨⟨ready_atReset, by decide⟩, ready_afterL1A, rfl, by decide⟩

theorem witness_ReservedRowsAreRefused : Ready atReset := ready_atReset

theorem witness_ReservedWordsAreRefused :
    (Ready (facing [.request 0x60000000] atReset) ∧
      (facing [.request 0x60000000] atReset).port = .request 0x60000000 :: [] ∧ 6 ≤ ((0x60000000 : Word) >>> 28).toNat) ∧
    (Ready (facing [.request 0x00000200] atReset) ∧
      (facing [.request 0x00000200] atReset).port = .request 0x00000200 :: [] ∧
      (0x00000200 : Word) &&& reservedMask ((0x00000200 : Word) >>> 28).toNat ≠ 0 ∧
      ∃ t, step (facing [.request 0x00000200] atReset) = .next t ∧
        (decide (t.fault = some ⟨.refused, 0x00000200⟩)) = true) :=
  ⟨⟨ready_atReset, rfl, by decide⟩, ready_atReset, rfl, by decide,
    nextWith_spec (p := fun t => decide (t.fault = some ⟨.refused, 0x00000200⟩)) (by decide)⟩

/-- From power-up, and from an idle parser in ProtocolA, with the shortest frame and a longer one. -/
theorem witness_GoodFrameAIsParsed :
    (Machine.Inv atReset ∧ atReset.fault = none ∧ atReset.state = .idle ∧ atReset.mode ≠ .protocolB ∧
      ([] : List Byte).length ≤ atReset.cfg.maxBody.toNat ∧ (0x12 : Byte) = checksumA 7 []) ∧
    (Machine.Inv idleA ∧ idleA.fault = none ∧ idleA.state = .idle ∧ idleA.mode ≠ .protocolB ∧
      ([0x10, 0x20] : List Byte).length ≤ idleA.cfg.maxBody.toNat ∧ (0x22 : Byte) = checksumA 5 [0x10, 0x20]) :=
  ⟨⟨inv_atReset, rfl, rfl, by decide, by decide, by decide⟩, inv_idleA, rfl, rfl, by decide, by decide,
    by decide⟩

theorem witness_BadChecksumFrameAIsRejected :
    Machine.Inv atReset ∧ atReset.fault = none ∧ atReset.state = .idle ∧ atReset.mode ≠ .protocolB ∧
    ([0x10, 0x20] : List Byte).length ≤ atReset.cfg.maxBody.toNat ∧ (0x23 : Byte) ≠ checksumA 5 [0x10, 0x20] :=
  ⟨inv_atReset, rfl, rfl, by decide, by decide, by decide⟩

theorem witness_GoodFrameBIsParsed :
    (Machine.Inv atReset ∧ atReset.fault = none ∧ atReset.state = .idle ∧
      (atReset.mode = .undetermined ∧ (0x30 : Byte) = atReset.cfg.signOn) ∧
      (Instr.wireBFrame 0x30 []).wf atReset.cfg = true) ∧
    (Machine.Inv signedOn ∧ signedOn.fault = none ∧ signedOn.state = .idle ∧ signedOn.mode = .protocolB ∧
      (Instr.wireBFrame 0x33 [0x1B, 0x1B, 0x0E, 0x20]).wf signedOn.cfg = true) :=
  ⟨⟨inv_atReset, rfl, rfl, ⟨rfl, rfl⟩, by decide⟩, inv_signedOn, rfl, rfl, rfl, by decide⟩

theorem witness_FrameInFlightIsNotConsumed : Ready afterL1A ∧ afterL1A.state = .complete := ⟨ready_afterL1A, rfl⟩

end Sys2Proof.Tests
end

/-! ## A step and its instruction; the refusal of an ill-formed configuration (00_scope.md R9, R14) -/

namespace Sys2Proof.Machine

/-! ### How a step follows from the next input -/

/-- An input that decodes has its own instruction run on the rest of the port. -/
theorem step_of_decodeInput {s : State} {inp : Input} {rest : List Input} {i : Instr} (hp : s.port = inp :: rest)
    (hd : decodeInput (context s) inp = .ok i) : step s = settle inp s (exec i (withPort rest s)) := by
  rw [step_of_port_cons hp, operationOf_ok hd]

/-- Settling an input that was consumed whole leaves the next state of its operation as it is. -/
theorem settle_next_of_consumed {inp : Input} {s t : State}
    (h : t.rxStream.length = s.rxStream.length + (offeredBy inp).length) : settle inp s (.next t) = .next t := by
  have hport : portAfter inp (t.rxStream.length - s.rxStream.length) t.port = t.port :=
    portAfter_all _ _ _ (by omega)
  show Host.Outcome.next (withPort (portAfter inp (t.rxStream.length - s.rxStream.length) t.port) t) = .next t
  rw [hport]
  rfl

/-- With an empty port a ready block holds its state (60_exceptions.md R215). -/
theorem step_of_port_nil_of_ready {s : State} (hp : s.port = []) (hr : Ready s) : step s = .next s :=
  (step_of_port_nil hp).trans (ifReady_of_ready hr)

/-! ### Under an ill-formed configuration -/

theorem exec_illFormed {s : State} (hc : s.cfg.wf = false) (i : Instr) : exec i s = .refused .illFormedConfig := by
  obtain ⟨body, hb⟩ := exec_isOperation s i
  exact hb.trans (ifReady_illFormed hc)

theorem step_illFormed {s : State} (hc : s.cfg.wf = false) : step s = .refused .illFormedConfig := by
  obtain ⟨o, ho⟩ := step_isOperation s
  exact ho.trans (ifReady_illFormed hc)

/-! ### The obligations -/

/-- Settles O11: the step of a decoded input is the settled outcome of its instruction, and settling changes nothing for an
input of the client or one whose bytes were all consumed. -/
theorem stepRunsDecodedInstruction : Obligations.StepRunsDecodedInstruction := by
  refine ⟨fun s inp rest i hp hd => ?_, fun s => step_of_port_nil_of_ready⟩
  have hstep : step s = settle inp s (exec i { s with port := rest }) := step_of_decodeInput hp hd
  refine ⟨hstep, fun hclient => ?_, fun t ht hconsumed => ?_⟩
  · rw [hstep, settle_fromClient hclient]
  · rw [hstep, ht, settle_next_of_consumed hconsumed]

/-- Settles O16: every instruction and every step begins with the check that refuses an ill-formed configuration. -/
theorem illFormedConfigIsRefused : Obligations.IllFormedConfigIsRefused :=
  fun _ hc => ⟨exec_illFormed hc, step_illFormed hc⟩

end Sys2Proof.Machine

/-! ## The state of the block: what each operation leaves alone, and the invariant (10_state.md R21 to R34) -/

namespace Sys2Proof.Machine

/-! ### What a request that presents no byte can do -/

/-- Everything a request word that presents no byte to the parser can do (41_length_negotiation.md, 42_response_encoder.md,
43_interpreter_port.md, 40_frame_state_machine.md R101): record a fault, only answer, raise the target, send a response, or
store one byte of the frame buffer. -/
inductive RequestEffect (s : State) : State → Prop
  | fault (r : FaultReason) (w : Word) : RequestEffect s (raiseFault r w s)
  | answer (w : Word) : RequestEffect s (answer w s)
  | raise (req : Half) (hidle : s.state ≠ .idle) (hheader : s.state ≠ .readingHeader) (hlt : s.bytesWanted < req)
      (hcap : req.toNat ≤ s.cfg.cap) : RequestEffect s (answer (okWord false) (raiseTarget req s))
  | respond (status : Byte) (size : Half) : RequestEffect s (answer zeroWord (emitResponse status size s))
  | store (i : Nat) (v : Byte) (hs : s.state = .complete) (hi : i < s.cfg.cap) :
      RequestEffect s (answer zeroWord (setBufByte i v s))

/-- What an access through the interpreter port can answer: a fault of the phase or of the range, or the access itself. -/
theorem bufAccess_next {w : Word} {addr : Half} {access : State → State} {s t : State}
    (h : bufAccess w addr access s = .next t) :
    (∃ r, t = raiseFault r w (startOp s)) ∨
      (s.state = .complete ∧ addr.toNat < s.cfg.cap ∧ t = access (startOp s)) := by
  obtain ⟨-, h⟩ := operation_next h
  split at h
  · cases h; exact .inl ⟨_, rfl⟩
  · split at h <;> cases h
    · exact .inl ⟨_, rfl⟩
    · exact .inr ⟨not_not.1 ‹_›, Nat.lt_of_not_le ‹_›, rfl⟩

theorem exec_ensure_next {req : Half} {s t : State} (h : exec (.ensure req) s = .next t) :
    RequestEffect (startOp s) t := by
  obtain ⟨-, h⟩ := operation_next ((exec_ensure s req).symm.trans h)
  split at h
  · cases h; exact .fault _ _
  · obtain ⟨hidle, hheader⟩ := not_or.1 ‹_›
    split at h
    · cases h; exact .answer _
    · split at h <;> cases h
      · exact .fault _ _
      · exact .raise req hidle hheader (BitVec.not_le.1 ‹_›) (Nat.le_of_not_lt ‹_›)

theorem exec_send_next {status : Byte} {size : Half} {s t : State} (h : exec (.send status size) s = .next t) :
    RequestEffect (startOp s) t := by
  obtain ⟨-, h⟩ := operation_next ((exec_send s status size).symm.trans h)
  split at h <;> cases h
  · exact .fault _ _
  · exact .respond _ _

/-- A request that presents no byte has one of the effects of `RequestEffect`. -/
theorem exec_request_next {i : Instr} {w : Word} {s t : State} (hw : encode i = .request w) (hp : presented i = none)
    (h : exec i s = .next t) : RequestEffect (startOp s) t := by
  have refuse {w : Word} (h : refuseWord w s = .next t) : RequestEffect (startOp s) t := by
    cases (operation_next h).2; exact .fault _ _
  cases i with
  | poll v b =>
    cases v with
    | false =>
      have hb := (operation_next h).2
      rw [pollBody_idle (.inr rfl)] at hb
      cases hb; exact .answer _
    | true => cases hp
  | ensure req => exact exec_ensure_next h
  | send status size => exact exec_send_next h
  | bufRd addr =>
    obtain ⟨r, rfl⟩ | ⟨-, -, rfl⟩ := bufAccess_next h
    · exact .fault _ _
    · exact .answer _
  | bufWr data addr =>
    change execBufWr data addr s = _ at h
    obtain ⟨r, rfl⟩ | ⟨hs, hi, rfl⟩ := bufAccess_next h
    · exact .fault _ _
    · exact .store _ _ hs hi
  | getSize => cases (operation_next ((exec_getSize s).symm.trans h)).2; exact .answer _
  | reservedOp67 low => exact refuse h
  | reservedOp815 low => exact refuse h
  | reservedBits w => exact refuse h
  | reset | rxDetectSignOn | rxDetectStart | rxDetectFail | rxAStart | rxABadStart | rxAToken | rxALength | rxBExt
  | rxBTable | rxBUnresolved | wireAFrame | wireBFrame => cases hw

/-! ### What operations leave alone -/

/-- From `s` to `t` the configuration, the port and the draw counter stay (70_reset_and_hazards.md R234). -/
structure KeepsBlock (s t : State) : Prop where
  cfg : t.cfg = s.cfg
  port : t.port = s.port
  draws : t.draws = s.draws

/-- From `s` to `t` these and the mode stay. -/
structure KeepsMode (s t : State) : Prop extends KeepsBlock s t where
  mode : t.mode = s.mode

theorem KeepsBlock.trans {s t u : State} (h : KeepsBlock s t) (h' : KeepsBlock t u) : KeepsBlock s u :=
  ⟨h'.cfg.trans h.cfg, h'.port.trans h.port, h'.draws.trans h.draws⟩

theorem KeepsMode.trans {s t u : State} (h : KeepsMode s t) (h' : KeepsMode t u) : KeepsMode s u :=
  ⟨h.toKeepsBlock.trans h'.toKeepsBlock, h'.mode.trans h.mode⟩

/-- What a request that presents no byte leaves alone. -/
structure KeptByRequest (s t : State) : Prop extends KeepsMode s t where
  seq : t.seq = s.seq
  bodySize : t.bodySize = s.bodySize
  rxStream : t.rxStream = s.rxStream

theorem RequestEffect.kept {s t : State} (h : RequestEffect (startOp s) t) : KeptByRequest s t := by
  cases h <;> exact ⟨⟨⟨rfl, rfl, rfl⟩, rfl⟩, rfl, rfl, rfl⟩

/-- Settles O20: each of the nine is a request word that presents no byte, and none of its effects writes these. -/
theorem onlyPollsWriteModeSeqAndBodySize : Obligations.OnlyPollsWriteModeSeqAndBodySize := by
  intro i s t h hi
  have hrequest : ∃ w, encode i = .request w ∧ presented i = none := by
    rcases hi with ⟨_, rfl⟩ | ⟨_, rfl⟩ | ⟨_, _, rfl⟩ | ⟨_, rfl⟩ | ⟨_, _, rfl⟩ | rfl | ⟨_, rfl⟩ | ⟨_, rfl⟩ | ⟨_, rfl⟩ <;>
      exact ⟨_, rfl, rfl⟩
  obtain ⟨w, hw, hp⟩ := hrequest
  have hk := (exec_request_next hw hp h).kept
  exact ⟨hk.mode, hk.seq, hk.bodySize, hk.rxStream⟩

/-! ### What a received byte changes -/

theorem incomplete_keeps (s : State) : KeepsMode s (incomplete s) := ⟨⟨rfl, rfl, rfl⟩, rfl⟩

theorem await_keeps (st : ParserState) (n : Half) (s : State) : KeepsMode s (await st n s) := ⟨⟨rfl, rfl, rfl⟩, rfl⟩

theorem headerError_keeps (s : State) : KeepsMode s (headerError s) := ⟨⟨rfl, rfl, rfl⟩, rfl⟩

theorem bodyComplete_keeps (s : State) : KeepsMode s (bodyComplete s) := by
  unfold bodyComplete
  split <;> exact ⟨⟨rfl, rfl, rfl⟩, rfl⟩

theorem lengthStep_keeps (s : State) : KeepsMode s (lengthStep s) := by
  unfold lengthStep
  split <;> exact ⟨⟨rfl, rfl, rfl⟩, rfl⟩

theorem headerStep_keeps (s : State) : KeepsMode s (headerStep s) := by
  unfold headerStep
  split
  · exact headerError_keeps s
  · exact lengthStep_keeps s

theorem firstByteA_keeps (b : Byte) (s : State) : KeepsMode s (firstByteA b s) := by
  unfold firstByteA
  split <;> exact ⟨⟨rfl, rfl, rfl⟩, rfl⟩

/-- The ProtocolB transition, by whether the frame is one byte long (40_frame_state_machine.md R110, R111). -/
theorem enterBodyB_eq (l : Half) (s : State) : enterBodyB l s =
    if s.bytesRead < l then incomplete (await .readingBody l s) else bodyComplete (await .readingBody l s) := rfl

theorem enterBodyB_keeps (l : Half) (s : State) : KeepsMode s (enterBodyB l s) := by
  rw [enterBodyB_eq]
  refine (await_keeps .readingBody l s).trans ?_
  split
  · exact incomplete_keeps _
  · exact bodyComplete_keeps _

theorem firstByteB_keeps (b : Byte) (s : State) : KeepsMode s (firstByteB b s) := by
  unfold firstByteB
  split
  · exact headerError_keeps s
  · split
    · exact headerError_keeps s
    · exact enterBodyB_keeps _ s

/-- The mode that a first byte selects in Undetermined mode (40_frame_state_machine.md R106). -/
def Selects (c : Cfg) (b : Byte) (m : Mode) : Prop :=
  (b = c.signOn ∧ m = .protocolB) ∨ (b = Config.start ∧ m = .protocolA)

/-- What a presented byte changes of the block and the mode: at most the mode, by detection. -/
structure TakesByte (b : Byte) (s t : State) : Prop extends KeepsBlock s t where
  mode : t.mode = s.mode ∨ s.state = .idle ∧ s.mode = .undetermined ∧ Selects s.cfg b t.mode

theorem KeepsMode.takesByte {s t : State} (b : Byte) (h : KeepsMode s t) : TakesByte b s t :=
  ⟨h.toKeepsBlock, .inl h.mode⟩

/-- The detection of a protocol, followed by a step that keeps the mode. -/
theorem KeepsMode.takesByte_select {s t : State} {b : Byte} {m : Mode} (hi : s.state = .idle)
    (hu : s.mode = .undetermined) (hsel : Selects s.cfg b m) (h : KeepsMode { s with mode := m } t) : TakesByte b s t :=
  ⟨⟨h.cfg, h.port, h.draws⟩, .inr ⟨hi, hu, h.mode ▸ hsel⟩⟩

/-- The intake itself touches neither the block nor the mode, nor what the detection depends on. -/
theorem TakesByte.of_takeByte {b : Byte} {s t : State} (h : TakesByte b (takeByte b (startOp s)) t) : TakesByte b s t :=
  ⟨⟨h.cfg, h.port, h.draws⟩, h.mode⟩

theorem idleStep_takesByte (b : Byte) {s : State} (hi : s.state = .idle) : TakesByte b s (idleStep b s) := by
  unfold idleStep
  split
  · rename_i hu
    split
    · exact (firstByteB_keeps b _).takesByte_select hi hu (.inl ⟨‹_›, rfl⟩)
    · split
      · exact (firstByteA_keeps b _).takesByte_select hi hu (.inr ⟨‹_›, rfl⟩)
      · exact (headerError_keeps s).takesByte b
  · exact (firstByteA_keeps b s).takesByte b
  · exact (firstByteB_keeps b s).takesByte b

theorem afterIntake_takesByte (b : Byte) (s : State) : TakesByte b s (afterIntake b s) := by
  unfold afterIntake
  split
  · exact (incomplete_keeps s).takesByte b
  · split
    · exact idleStep_takesByte b ‹_›
    · exact (headerStep_keeps s).takesByte b
    · exact (bodyComplete_keeps s).takesByte b
    · exact (incomplete_keeps s).takesByte b

theorem pollBody_takesByte {v : Bool} {b : Byte} {s t : State} (h : pollBody v b (startOp s) = .next t) :
    TakesByte b s t := by
  obtain ⟨-, rfl⟩ | ⟨-, -, -, rfl⟩ := pollBody_next h
  · exact ⟨⟨rfl, rfl, rfl⟩, .inl rfl⟩
  · exact (afterIntake_takesByte b _).of_takeByte

/-- A row changes no more than a POLL does, if its own effect after the intake does not. -/
theorem rxRow_takesByte {i : Instr} {b : Byte} {row : State → State} {s t : State} (h : rxRow i b row s = .next t)
    (hrow : i.wf s.cfg = true → i.inContext (context s) = true →
      TakesByte b (takeByte b (startOp s)) (row (takeByte b (startOp s)))) : TakesByte b s t := by
  have hb := (operation_next h).2
  split at hb
  · obtain ⟨hwf, hctx⟩ := Bool.and_eq_true_iff.1 ‹_›
    obtain ⟨-, rfl⟩ := presentByte_next hb
    exact (hrow hwf hctx).of_takeByte
  · exact pollBody_takesByte hb

/-- A row whose own effect keeps the mode. -/
theorem rxRow_takesByte_of_keeps {i : Instr} {b : Byte} {row : State → State} {s t : State}
    (h : rxRow i b row s = .next t) (hrow : ∀ u, KeepsMode u (row u)) : TakesByte b s t :=
  rxRow_takesByte h fun _ _ => (hrow _).takesByte b

theorem exec_rxALength_takesByte {len : Half} {s t : State} (h : exec (.rxALength len) s = .next t) :
    TakesByte Config.token s t := by
  have hb := (operation_next ((exec_rxALength s len).symm.trans h)).2
  split at hb
  · obtain ⟨-, rfl⟩ := presentByte_next hb
    split <;> exact ⟨⟨rfl, rfl, rfl⟩, .inl rfl⟩
  · exact pollBody_takesByte hb

/-- An instruction that presents a byte, a POLL or a row in its context or out of it, changes no more than `TakesByte`
says. -/
theorem exec_presented_takesByte {i : Instr} {b : Byte} {s t : State} (hp : presented i = some b)
    (h : exec i s = .next t) : TakesByte b s t := by
  cases i with
  | poll v d =>
    cases v with
    | true => cases hp; exact pollBody_takesByte (operation_next h).2
    | false => cases hp
  | rxDetectSignOn d =>
    cases hp
    refine rxRow_takesByte h fun hwf hctx => ?_
    obtain ⟨hi, hu⟩ := (inContext_rxDetectSignOn s b).1 hctx
    exact (firstByteB_keeps b _).takesByte_select hi hu (.inl ⟨of_decide_eq_true hwf, rfl⟩)
  | rxDetectStart d =>
    cases hp
    refine rxRow_takesByte h fun hwf hctx => ?_
    obtain ⟨hi, hu⟩ := (inContext_rxDetectStart s b).1 hctx
    exact ((await_keeps _ _ _).trans (incomplete_keeps _)).takesByte_select hi hu (.inr ⟨of_decide_eq_true hwf, rfl⟩)
  | rxDetectFail d => cases hp; exact rxRow_takesByte_of_keeps h headerError_keeps
  | rxAStart d => cases hp; exact rxRow_takesByte_of_keeps h fun _ => (await_keeps _ _ _).trans (incomplete_keeps _)
  | rxABadStart d => cases hp; exact rxRow_takesByte_of_keeps h headerError_keeps
  | rxAToken d =>
    cases hp
    refine rxRow_takesByte_of_keeps h fun u => ?_
    split
    · exact lengthStep_keeps u
    · exact headerError_keeps u
  | rxALength len => cases hp; exact exec_rxALength_takesByte h
  | rxBExt d => cases hp; exact rxRow_takesByte_of_keeps h fun _ => (await_keeps _ _ _).trans (incomplete_keeps _)
  | rxBTable d => cases hp; exact rxRow_takesByte_of_keeps h fun u => enterBodyB_keeps _ u
  | rxBUnresolved d => cases hp; exact rxRow_takesByte_of_keeps h headerError_keeps
  | ensure | send | bufRd | bufWr | getSize | reservedOp67 | reservedOp815 | reservedBits | reset | wireAFrame
  | wireBFrame => cases hp

/-! ### What a frame on the wire changes -/

/-- A frame on the wire is the POLLs of its bytes (30_encoding.md R85; log 10). -/
theorem exec_wire {i : Instr} {bs : List Byte} (hw : encode i = .wire bs) (s : State) :
    exec i s = operation s (feed bs) := by
  cases i with
  | wireAFrame q body ck => cases hw; rfl
  | wireBFrame code params => cases hw; rfl
  | poll | ensure | send | bufRd | bufWr | getSize | reservedOp67 | reservedOp815 | reservedBits | reset | rxDetectSignOn
  | rxDetectStart | rxDetectFail | rxAStart | rxABadStart | rxAToken | rxALength | rxBExt | rxBTable | rxBUnresolved =>
    cases hw

theorem feed_cons_next {b : Byte} {bs : List Byte} {s t : State} (h : feed (b :: bs) s = .next t) :
    ∃ u, pollBody true b (startOp s) = .next u ∧ feed bs u = .next t := by
  unfold feed at h
  split at h
  · exact ⟨_, ‹_›, h⟩
  · cases h
  · cases h

/-- What a sequence of presented bytes changes of the block and the mode: at most the mode, by detection, and once. -/
structure TakesBytes (bs : List Byte) (s t : State) : Prop extends KeepsBlock s t where
  mode : t.mode = s.mode ∨ s.mode = .undetermined ∧ ∃ b ∈ bs, Selects s.cfg b t.mode

theorem Selects.mode_ne {c : Cfg} {b : Byte} {m : Mode} (h : Selects c b m) : m ≠ .undetermined := by
  obtain ⟨-, rfl⟩ | ⟨-, rfl⟩ := h <;> decide

theorem TakesByte.cons {b : Byte} {bs : List Byte} {s t u : State} (h : TakesByte b s u) (h' : TakesBytes bs u t) :
    TakesBytes (b :: bs) s t := by
  refine ⟨h.toKeepsBlock.trans h'.toKeepsBlock, ?_⟩
  obtain hkept | ⟨-, hu, hsel⟩ := h.mode
  · obtain hkept' | ⟨hu, c, hc, hsel⟩ := h'.mode
    · exact .inl (hkept'.trans hkept)
    · exact .inr ⟨hkept ▸ hu, c, List.mem_cons_of_mem b hc, h.cfg ▸ hsel⟩
  · obtain hkept' | ⟨hu', -⟩ := h'.mode
    · exact .inr ⟨hu, b, List.mem_cons_self, hkept' ▸ hsel⟩
    · exact absurd hu' hsel.mode_ne

theorem feed_takesBytes {bs : List Byte} {s t : State} (h : feed bs s = .next t) : TakesBytes bs s t := by
  induction bs generalizing s with
  | nil => cases h; exact ⟨⟨rfl, rfl, rfl⟩, .inl rfl⟩
  | cons b bs ih =>
    obtain ⟨u, hb, hbs⟩ := feed_cons_next h
    exact (pollBody_takesByte hb).cons (ih hbs)

theorem exec_wire_takesBytes {i : Instr} {bs : List Byte} {s t : State} (hw : encode i = .wire bs)
    (h : exec i s = .next t) : TakesBytes bs s t := by
  obtain ⟨-, hb⟩ := operation_next ((exec_wire hw s).symm.trans h)
  have hf := feed_takesBytes hb
  exact ⟨⟨hf.cfg, hf.port, hf.draws⟩, hf.mode⟩

/-! ### Every instruction -/

/-- The four kinds of instruction: the reset pulse, a request that presents no byte, an instruction that presents one byte,
and a frame on the wire. -/
theorem instr_kind (i : Instr) : i = .reset ∨ (∃ w, encode i = .request w ∧ presented i = none) ∨
    (∃ b, presented i = some b) ∨ ∃ bs, encode i = .wire bs := by
  cases i with
  | reset => exact .inl rfl
  | poll v b =>
    cases v with
    | false => exact .inr (.inl ⟨_, rfl, rfl⟩)
    | true => exact .inr (.inr (.inl ⟨_, rfl⟩))
  | ensure | send | bufRd | bufWr | getSize | reservedOp67 | reservedOp815 | reservedBits =>
    exact .inr (.inl ⟨_, rfl, rfl⟩)
  | rxDetectSignOn | rxDetectStart | rxDetectFail | rxAStart | rxABadStart | rxAToken | rxALength | rxBExt | rxBTable
  | rxBUnresolved => exact .inr (.inr (.inl ⟨_, rfl⟩))
  | wireAFrame | wireBFrame => exact .inr (.inr (.inr ⟨_, rfl⟩))

theorem exec_reset_next {s t : State} (h : exec .reset s = .next t) : t = hardReset (startOp s) :=
  (Host.Outcome.next.inj (operation_next ((exec_reset s).symm.trans h)).2).symm

/-- Settles O18: requests, presented bytes and frames keep the block, and RESET all of it but the draw counter. -/
theorem configurationIsConstant : Obligations.ConfigurationIsConstant := by
  intro i s t h
  have keeps (hk : KeepsBlock s t) : t.cfg = s.cfg ∧ t.port = s.port ∧ (i ≠ .reset → t.draws = s.draws) :=
    ⟨hk.cfg, hk.port, fun _ => hk.draws⟩
  obtain rfl | ⟨w, hw, hp⟩ | ⟨b, hp⟩ | ⟨bs, hw⟩ := instr_kind i
  · cases exec_reset_next h; exact ⟨rfl, rfl, fun hne => absurd rfl hne⟩
  · exact keeps (exec_request_next hw hp h).kept.toKeepsBlock
  · exact keeps (exec_presented_takesByte hp h).toKeepsBlock
  · exact keeps (exec_wire_takesBytes hw h).toKeepsBlock

/-- Once a mode is selected, nothing but a hard reset changes it. -/
theorem exec_mode_of_selected {i : Instr} {s t : State} (h : exec i s = .next t) (hi : i ≠ .reset)
    (hm : s.mode ≠ .undetermined) : t.mode = s.mode := by
  obtain rfl | ⟨w, hw, hp⟩ | ⟨b, hp⟩ | ⟨bs, hw⟩ := instr_kind i
  · exact absurd rfl hi
  · exact (exec_request_next hw hp h).kept.mode
  · exact (exec_presented_takesByte hp h).mode.resolve_right fun hd => hm hd.2.1
  · exact (exec_wire_takesBytes hw h).mode.resolve_right fun hd => hm hd.1

/-- Settles O19, one clause for each kind of instruction: the mode comes from detection or from a hard reset alone. -/
theorem modeIsSticky : Obligations.ModeIsSticky := by
  refine fun i s t h => ⟨?_, exec_mode_of_selected h, fun w hw hp => (exec_request_next hw hp h).kept.mode, ?_, ?_⟩
  · rintro rfl
    cases exec_reset_next h; rfl
  · exact fun b hp hne => (exec_presented_takesByte hp h).mode.resolve_left hne
  · intro bs hw hne
    obtain ⟨hu, b, hb, ⟨rfl, hm⟩ | ⟨rfl, hm⟩⟩ := (exec_wire_takesBytes hw h).mode.resolve_left hne
    · exact ⟨hu, .inl ⟨hb, hm⟩⟩
    · exact ⟨hu, .inr ⟨hb, hm⟩⟩

/-! ### The invariant in each parser state -/

/-- What the invariant asks in every parser state: a well-formed configuration and the canonical form of the frame
buffer. -/
structure StorageOk (s : State) : Prop where
  cfgOk : s.cfg.wf = true
  bufForm : Memory.wf s.draws s.buf = true
  bufBelow : Memory.below s.cfg.cap s.buf = true

theorem Inv.storageOk {s : State} (h : Inv s) : StorageOk s := ⟨h.cfgOk, h.bufForm, h.bufBelow⟩

theorem StorageOk.storageOk_setBufByte {s : State} {i : Nat} (h : StorageOk s) (hi : i < s.cfg.cap) (v : Byte) :
    StorageOk (setBufByte i v s) :=
  ⟨h.cfgOk, Memory.wf_write _ _ i v h.bufForm, Memory.below_write _ _ _ i v hi h.bufBelow⟩

theorem StorageOk.storageOk_takeByte {s : State} (h : StorageOk s) (hi : s.bytesRead.toNat < s.cfg.cap) (b : Byte) :
    StorageOk (takeByte b s) :=
  ⟨h.cfgOk, (h.storageOk_setBufByte hi b).bufForm, (h.storageOk_setBufByte hi b).bufBelow⟩

/-- V8: no constructor has the encoding 3. -/
theorem Mode.code_ne_three (m : Mode) : m.code ≠ 3 := by cases m <;> decide

/-- Idle: what a soft reset leaves, with any mode, buffer and streams. -/
theorem StorageOk.inv_softReset {s : State} (h : StorageOk s) : Inv (softReset s) where
  cfgOk := h.cfgOk
  v1 := ⟨show (0 : Half) ≤ 1 by decide, Nat.le_trans (show 1 ≤ 6 by decide) (Cfg_cap_ge_six s.cfg)⟩
  v2 _ := ⟨rfl, rfl, rfl⟩
  v3 _ := rfl
  v4 := nofun
  v5 := nofun
  v6 := nofun
  v7 _ hne := absurd rfl hne
  v8 := Mode.code_ne_three _
  frameIdle _ := rfl
  bufForm := h.bufForm
  bufBelow := h.bufBelow

theorem StorageOk.inv_readingHeader {s : State} (h : StorageOk s) (hs : s.state = .readingHeader)
    (hm : s.mode = .protocolA) (hw : s.bytesWanted = 5) (hr : 1 ≤ s.bytesRead ∧ s.bytesRead ≤ 4)
    (hb : bufByte s 0 = Config.start) (hck : s.cksum = xorAll s.rxFrame) : Inv s where
  cfgOk := h.cfgOk
  v1 := ⟨by bv_omega, by rw [hw]; exact Nat.le_trans (by decide) (Cfg_cap_ge_six s.cfg)⟩
  v2 hs' := nomatch hs.symm.trans hs'
  v3 hm' := nomatch hm.symm.trans hm'
  v4 _ := ⟨hm, hw, hr.1, hr.2, hb⟩
  v5 hs' := nomatch hs.symm.trans hs'
  v6 hs' := nomatch hs.symm.trans hs'
  v7 _ _ := hck
  v8 := Mode.code_ne_three _
  frameIdle hs' := nomatch hs.symm.trans hs'
  bufForm := h.bufForm
  bufBelow := h.bufBelow

theorem StorageOk.inv_readingBody {s : State} (h : StorageOk s) (hs : s.state = .readingBody)
    (hm : s.mode ≠ .undetermined) (hlt : s.bytesRead < s.bytesWanted) (hcap : s.bytesWanted.toNat ≤ s.cfg.cap)
    (hck : s.mode = .protocolA → s.cksum = xorAll s.rxFrame) : Inv s where
  cfgOk := h.cfgOk
  v1 := ⟨BitVec.le_of_lt hlt, hcap⟩
  v2 hs' := nomatch hs.symm.trans hs'
  v3 hm' := absurd hm' hm
  v4 hs' := nomatch hs.symm.trans hs'
  v5 _ := ⟨hm, hlt⟩
  v6 hs' := nomatch hs.symm.trans hs'
  v7 hm _ := hck hm
  v8 := Mode.code_ne_three _
  frameIdle hs' := nomatch hs.symm.trans hs'
  bufForm := h.bufForm
  bufBelow := h.bufBelow

theorem StorageOk.inv_complete {s : State} (h : StorageOk s) (hs : s.state = .complete) (hm : s.mode ≠ .undetermined)
    (hr : 1 ≤ s.bytesRead) (heq : s.bytesRead = s.bytesWanted) (hcap : s.bytesWanted.toNat ≤ s.cfg.cap)
    (hsize : s.bodySize = s.bytesRead - 1) (hck : s.mode = .protocolA → s.cksum = 0 ∧ xorAll s.rxFrame = 0) : Inv s where
  cfgOk := h.cfgOk
  v1 := ⟨heq ▸ BitVec.le_refl _, hcap⟩
  v2 hs' := nomatch hs.symm.trans hs'
  v3 hm' := absurd hm' hm
  v4 hs' := nomatch hs.symm.trans hs'
  v5 hs' := nomatch hs.symm.trans hs'
  v6 _ := ⟨hm, hr, heq, hsize, fun hm => (hck hm).1⟩
  v7 hm _ := (hck hm).1.trans (hck hm).2.symm
  v8 := Mode.code_ne_three _
  frameIdle hs' := nomatch hs.symm.trans hs'
  bufForm := h.bufForm
  bufBelow := h.bufBelow

/-! ### What the invariant does not speak of -/

theorem Inv.inv_answer {s : State} (h : Inv s) (w : Word) : Inv (answer w s) :=
  ⟨h.cfgOk, h.v1, h.v2, h.v3, h.v4, h.v5, h.v6, h.v7, h.v8, h.frameIdle, h.bufForm, h.bufBelow⟩

theorem Inv.inv_raiseFault {s : State} (h : Inv s) (r : FaultReason) (w : Word) : Inv (raiseFault r w s) :=
  ⟨h.cfgOk, h.v1, h.v2, h.v3, h.v4, h.v5, h.v6, h.v7, h.v8, h.frameIdle, h.bufForm, h.bufBelow⟩

theorem Inv.inv_withPort {s : State} (h : Inv s) (p : List Input) : Inv (withPort p s) :=
  ⟨h.cfgOk, h.v1, h.v2, h.v3, h.v4, h.v5, h.v6, h.v7, h.v8, h.frameIdle, h.bufForm, h.bufBelow⟩

/-! ### Resets and requests -/

/-- Power-up is an idle state with an empty buffer. -/
theorem inv_powerUp {c : Cfg} (hc : c.wf = true) : Inv (State.powerUp c) :=
  StorageOk.inv_softReset (s := State.powerUp c) ⟨hc, rfl, rfl⟩

/-- Settles O8, at every well-formed configuration and so at that of `State.reset`. -/
theorem powerUpMeetsInvariant : Obligations.PowerUpMeetsInvariant :=
  ⟨fun _ => inv_powerUp, inv_powerUp (by decide)⟩

theorem StorageOk.inv_hardReset {s : State} (h : StorageOk s) : Inv (hardReset s) :=
  StorageOk.inv_softReset ⟨h.cfgOk, rfl, rfl⟩

/-- A response stores its status at index 1, which every frame buffer has, and ends in a soft reset. -/
theorem StorageOk.inv_emitResponse {s : State} (h : StorageOk s) (status : Byte) (size : Half) :
    Inv (emitResponse status size s) :=
  have hs := h.storageOk_setBufByte (Nat.lt_of_lt_of_le (by decide) (Cfg_cap_ge_six s.cfg)) status
  StorageOk.inv_softReset ⟨hs.cfgOk, hs.bufForm, hs.bufBelow⟩

/-- A store into the buffer of a parser that is not reading a header. -/
theorem Inv.inv_setBufByte {s : State} {i : Nat} (h : Inv s) (hs : s.state ≠ .readingHeader) (hi : i < s.cfg.cap)
    (v : Byte) : Inv (setBufByte i v s) :=
  have hok := h.storageOk.storageOk_setBufByte hi v
  ⟨h.cfgOk, h.v1, h.v2, h.v3, fun hs' => absurd hs' hs, h.v5, h.v6, h.v7, h.v8, h.frameIdle, hok.bufForm, hok.bufBelow⟩

/-- ENSURE's larger target leaves the parser reading the body (41_length_negotiation.md R141, R143). -/
theorem Inv.inv_raiseTarget {s : State} {req : Half} (h : Inv s) (hidle : s.state ≠ .idle)
    (hheader : s.state ≠ .readingHeader) (hlt : s.bytesWanted < req) (hcap : req.toNat ≤ s.cfg.cap) : Inv (raiseTarget req s) := by
  have hm : s.mode ≠ .undetermined := fun hm => hidle (h.v3 hm)
  have hbody : (raiseTarget req s).state = .readingBody := by
    cases hs : s.state with
    | idle => exact absurd hs hidle
    | readingHeader => exact absurd hs hheader
    | readingBody => rw [raiseTarget_state_other s req (by simp [hs]), hs]
    | complete => exact raiseTarget_state_complete s req hs
  have hbelow : s.bytesRead < req := by have := h.v1.1; bv_omega
  exact StorageOk.inv_readingBody ⟨h.cfgOk, h.bufForm, h.bufBelow⟩ hbody hm hbelow hcap fun hm => h.v7 hm hidle

theorem RequestEffect.inv {s t : State} (he : RequestEffect s t) (h : Inv s) : Inv t := by
  cases he with
  | fault r w => exact h.inv_raiseFault r w
  | answer w => exact h.inv_answer w
  | raise req hidle hheader hlt hcap => exact (h.inv_raiseTarget hidle hheader hlt hcap).inv_answer _
  | respond status size => exact (h.storageOk.inv_emitResponse status size).inv_answer _
  | store i v hs hi => exact (h.inv_setBufByte (by simp [hs]) hi v).inv_answer _

/-! ### The byte intake (40_frame_state_machine.md R102 to R104) -/

theorem xorAll_concat (bs : List Byte) (b : Byte) : xorAll (bs ++ [b]) = xorAll bs ^^^ b :=
  List.foldl_concat _ _ _ _

/-- Taking a byte keeps the checksum the exclusive-or of the frame so far. -/
theorem takeByte_cksum_eq {s : State} (h : s.cksum = xorAll s.rxFrame) (b : Byte) :
    (takeByte b s).cksum = xorAll (takeByte b s).rxFrame := by
  rw [takeByte_cksum, takeByte_rxFrame, xorAll_concat, h]

/-- V7 with the idle parser, whose frame is empty. -/
theorem Inv.cksum_eq {s : State} (h : Inv s) (hm : s.state = .idle ∨ s.mode = .protocolA) :
    s.cksum = xorAll s.rxFrame := by
  by_cases hs : s.state = .idle
  · rw [(h.v2 hs).2.2, h.frameIdle hs]; rfl
  · exact h.v7 (hm.resolve_left hs) hs

theorem Inv.storageOk_takeByte {s : State} (h : Inv s) (hs : s.state ≠ .complete) (b : Byte) : StorageOk (takeByte b s) :=
  h.storageOk.storageOk_takeByte (h.room hs) b

/-- A byte below the target keeps the invariant, in either reading state. -/
theorem Inv.inv_takeByte {s : State} (h : Inv s) (hs : s.state ≠ .complete) (hlt : s.bytesRead + 1 < s.bytesWanted)
    (b : Byte) : Inv (takeByte b s) := by
  have hok := h.storageOk_takeByte hs b
  cases hst : s.state with
  | idle =>
    obtain ⟨hr, hw, -⟩ := h.v2 hst
    rw [hr, hw] at hlt
    exact absurd hlt (by decide)
  | readingHeader =>
    obtain ⟨hm, hw, h1, h4, hb⟩ := h.v4 hst
    rw [hw] at hlt
    refine hok.inv_readingHeader hst hm hw ?_ ?_ (takeByte_cksum_eq (h.cksum_eq (.inr hm)) b)
    · simp only [takeByte_bytesRead]
      constructor <;> bv_omega
    · rw [bufByte_takeByte s b 0 h.bufForm, if_neg (by bv_omega), hb]
  | readingBody =>
    exact hok.inv_readingBody hst (h.v5 hst).1 hlt h.v1.2 fun hm => takeByte_cksum_eq (h.cksum_eq (.inr hm)) b
  | complete => exact absurd hst hs

/-- Below the target a POLL is Incomplete (R103). -/
theorem afterIntake_below {s : State} {b : Byte} (hlt : s.bytesRead < s.bytesWanted) : afterIntake b s = incomplete s :=
  if_pos hlt

/-- In Idle every byte reaches the target, and is a first byte. -/
theorem Inv.afterIntake_idle {s : State} (h : Inv s) (hs : s.state = .idle) (b : Byte) :
    afterIntake b (takeByte b s) = idleStep b (takeByte b s) := by
  obtain ⟨hr, hw, -⟩ := h.v2 hs
  simp [afterIntake, hs, hr, hw]

/-- At header index 4 the byte reaches the target, and is the token (R112). -/
theorem Inv.afterIntake_token {s : State} (h : Inv s) (hs : s.state = .readingHeader) (h4 : s.bytesRead = 4) (b : Byte) :
    afterIntake b (takeByte b s) =
      if b = Config.token then lengthStep (takeByte b s) else headerError (takeByte b s) := by
  obtain ⟨-, hw, -⟩ := h.v4 hs
  have htoken : headerToken (takeByte b s) = b := by
    rw [headerToken, bufByte_takeByte s b 4 h.bufForm, h4]; rfl
  simp [afterIntake, headerStep, hs, h4, hw, htoken]

/-- In ReadingBody a byte that reaches the target completes the body (R104). -/
theorem afterIntake_body {s : State} (hs : s.state = .readingBody) (hlt : ¬ s.bytesRead < s.bytesWanted) (b : Byte) :
    afterIntake b s = bodyComplete s := by
  simp [afterIntake, hs, hlt]

/-! ### The steps after the intake -/

theorem StorageOk.inv_headerError {s : State} (h : StorageOk s) : Inv (headerError s) := h.inv_softReset.inv_answer _

/-- The length check lets only a body into the buffer that fits there with its checksum (R113, R114). -/
theorem StorageOk.inv_lengthStep {s : State} (h : StorageOk s) (hm : s.mode = .protocolA)
    (hck : s.cksum = xorAll s.rxFrame) : Inv (lengthStep s) := by
  unfold lengthStep
  split
  · exact h.inv_headerError
  · have hlen : (headerLength s).toNat ≤ s.cfg.maxBody.toNat := BitVec.not_lt.1 ‹_›
    have hcap := Cfg_cap_le s.cfg h.cfgOk
    have hcapEq : s.cfg.cap = 5 + s.cfg.maxBody.toNat + 1 := rfl
    refine (StorageOk.inv_readingBody (s := { s with
      seq := headerSeq s, bytesRead := 0, bytesWanted := headerLength s + 1, state := .readingBody })
      ⟨h.cfgOk, h.bufForm, h.bufBelow⟩ rfl ?_ ?_ ?_ fun _ => hck).inv_answer _
    · show s.mode ≠ .undetermined
      simp [hm]
    · show (0 : Half) < headerLength s + 1
      bv_omega
    · show (headerLength s + 1).toNat ≤ s.cfg.cap
      bv_omega

/-- A body that has reached its target is a command, or ends in the checksum-error response (R117, R121). -/
theorem StorageOk.inv_bodyComplete {s : State} (h : StorageOk s) (hm : s.mode ≠ .undetermined) (hr : 1 ≤ s.bytesRead)
    (heq : s.bytesRead = s.bytesWanted) (hcap : s.bytesWanted.toNat ≤ s.cfg.cap)
    (hck : s.mode = .protocolA → s.cksum = xorAll s.rxFrame) : Inv (bodyComplete s) := by
  unfold bodyComplete
  split
  · exact (h.inv_emitResponse _ _).inv_answer _
  · rename_i hgood
    have hzero (hm : s.mode = .protocolA) : s.cksum = 0 := not_not.1 fun hne => hgood ⟨hm, hne⟩
    exact (StorageOk.inv_complete (s := { s with state := .complete, bodySize := s.bytesRead - 1 })
      ⟨h.cfgOk, h.bufForm, h.bufBelow⟩ rfl hm hr heq hcap rfl
      fun hm => ⟨hzero hm, (hck hm).symm.trans (hzero hm)⟩).inv_answer _

/-- What the intake of the first byte of a frame leaves, whatever mode it selects. -/
structure FirstByteTaken (b : Byte) (s : State) : Prop extends StorageOk s where
  bytesRead : s.bytesRead = 1
  first : bufByte s 0 = b
  cksum : s.cksum = xorAll s.rxFrame

theorem Inv.firstByteTaken {s : State} (h : Inv s) (hs : s.state = .idle) (b : Byte) :
    FirstByteTaken b (takeByte b s) := by
  have hr := (h.v2 hs).1
  refine ⟨h.storageOk_takeByte (by simp [hs]) b, ?_, ?_, takeByte_cksum_eq (h.cksum_eq (.inl hs)) b⟩
  · rw [takeByte_bytesRead, hr]; rfl
  · rw [bufByte_takeByte s b 0 h.bufForm, hr]; rfl

theorem FirstByteTaken.withMode {b : Byte} {s : State} (h : FirstByteTaken b s) (m : Mode) :
    FirstByteTaken b { s with mode := m } :=
  ⟨⟨h.cfgOk, h.bufForm, h.bufBelow⟩, h.bytesRead, h.first, h.cksum⟩

/-- The first byte of a ProtocolA frame is START (R108). -/
theorem firstByteA_start (s : State) : firstByteA Config.start s = incomplete (await .readingHeader 5 s) := rfl

theorem firstByteA_of_ne {b : Byte} (hb : b ≠ Config.start) (s : State) : firstByteA b s = headerError s := if_pos hb

theorem FirstByteTaken.inv_firstByteA {b : Byte} {s : State} (h : FirstByteTaken b s) (hm : s.mode = .protocolA) :
    Inv (firstByteA b s) := by
  by_cases hb : b = Config.start
  · subst hb
    rw [firstByteA_start]
    exact (StorageOk.inv_readingHeader (s := await .readingHeader 5 s) ⟨h.cfgOk, h.bufForm, h.bufBelow⟩ rfl hm rfl
      (by rw [await_bytesRead, h.bytesRead]; decide) h.first h.cksum).inv_answer _
  · rw [firstByteA_of_ne hb]
    exact h.inv_headerError

theorem FirstByteTaken.inv_enterBodyB {b : Byte} {s : State} {l : Half} (h : FirstByteTaken b s)
    (hm : s.mode = .protocolB) (hl : l ≠ 0) (hcap : l.toNat ≤ s.cfg.cap) : Inv (enterBodyB l s) := by
  have hok : StorageOk (await .readingBody l s) := ⟨h.cfgOk, h.bufForm, h.bufBelow⟩
  have hmode : (await .readingBody l s).mode ≠ .undetermined := by simp [hm]
  rw [enterBodyB_eq]
  split
  · exact (hok.inv_readingBody rfl hmode ‹_› hcap fun _ => h.cksum).inv_answer _
  · have hr := h.bytesRead
    have heq : s.bytesRead = l := by bv_omega
    exact hok.inv_bodyComplete hmode (by rw [await_bytesRead, hr]; decide) heq hcap fun _ => h.cksum

theorem isResolved_iff (c : Cfg) (b : Byte) : isResolved c b = true ↔ ∃ l, resolveLength c b = some l ∧ l ≠ 0 := by
  unfold isResolved
  cases resolveLength c b <;> simp

/-- The first byte of a ProtocolB frame whose length is known (R110). -/
theorem firstByteB_of_resolved {b : Byte} {s : State} {l : Half} (hl : resolveLength s.cfg b = some l) (h0 : l ≠ 0) :
    firstByteB b s = enterBodyB l s := by
  simp only [firstByteB, hl, if_neg h0]

/-- The first byte of no ProtocolB frame (R109). -/
theorem firstByteB_of_unresolved {b : Byte} {s : State} (h : isResolved s.cfg b = false) :
    firstByteB b s = headerError s := by
  cases hl : resolveLength s.cfg b with
  | none => simp [firstByteB, hl]
  | some l =>
    have h0 : l = 0 := by simpa [isResolved, hl] using h
    simp [firstByteB, hl, h0]

theorem FirstByteTaken.inv_firstByteB {b : Byte} {s : State} (h : FirstByteTaken b s) (hm : s.mode = .protocolB) :
    Inv (firstByteB b s) := by
  cases hres : isResolved s.cfg b with
  | true =>
    obtain ⟨l, hl, h0⟩ := (isResolved_iff _ _).1 hres
    rw [firstByteB_of_resolved hl h0]
    exact h.inv_enterBodyB hm h0 (resolveLength_le_cap _ _ _ h.cfgOk hl)
  | false =>
    rw [firstByteB_of_unresolved hres]
    exact h.inv_headerError

/-! The Idle step, by mode and byte (R105 to R107). -/

theorem idleStep_signOn {b : Byte} {s : State} (hm : s.mode = .undetermined) (hb : b = s.cfg.signOn) :
    idleStep b s = firstByteB b { s with mode := .protocolB } := by
  simp only [idleStep, hm, if_pos hb]

theorem idleStep_start {b : Byte} {s : State} (hm : s.mode = .undetermined) (hne : b ≠ s.cfg.signOn)
    (hb : b = Config.start) : idleStep b s = firstByteA b { s with mode := .protocolA } := by
  simp only [idleStep, hm, if_neg hne, if_pos hb]

theorem idleStep_fail {b : Byte} {s : State} (hm : s.mode = .undetermined) (hne : b ≠ s.cfg.signOn)
    (hb : b ≠ Config.start) : idleStep b s = headerError s := by
  simp only [idleStep, hm, if_neg hne, if_neg hb]

theorem idleStep_protocolA {b : Byte} {s : State} (hm : s.mode = .protocolA) : idleStep b s = firstByteA b s := by
  simp only [idleStep, hm]

theorem idleStep_protocolB {b : Byte} {s : State} (hm : s.mode = .protocolB) : idleStep b s = firstByteB b s := by
  simp only [idleStep, hm]

theorem FirstByteTaken.inv_idleStep {b : Byte} {s : State} (h : FirstByteTaken b s) : Inv (idleStep b s) := by
  cases hm : s.mode with
  | undetermined =>
    by_cases hsign : b = s.cfg.signOn
    · rw [idleStep_signOn hm hsign]
      exact (h.withMode .protocolB).inv_firstByteB rfl
    · by_cases hstart : b = Config.start
      · rw [idleStep_start hm hsign hstart]
        exact (h.withMode .protocolA).inv_firstByteA rfl
      · rw [idleStep_fail hm hsign hstart]
        exact h.inv_headerError
  | protocolA => rw [idleStep_protocolA hm]; exact h.inv_firstByteA hm
  | protocolB => rw [idleStep_protocolB hm]; exact h.inv_firstByteB hm

/-! ### POLL, the rows and the frames -/

theorem Inv.inv_afterIntake {s : State} (h : Inv s) (hs : s.state ≠ .complete) (b : Byte) :
    Inv (afterIntake b (takeByte b s)) := by
  by_cases hlt : s.bytesRead + 1 < s.bytesWanted
  · rw [afterIntake_below hlt]
    exact (h.inv_takeByte hs hlt b).inv_answer _
  have hok := h.storageOk_takeByte hs b
  have hbelow := h.belowTarget hs
  have hpos : 1 ≤ s.bytesRead + 1 := by bv_omega
  have heq : s.bytesRead + 1 = s.bytesWanted := by bv_omega
  cases hst : s.state with
  | idle =>
    rw [h.afterIntake_idle hst]
    exact (h.firstByteTaken hst b).inv_idleStep
  | readingHeader =>
    obtain ⟨hm, hw, -⟩ := h.v4 hst
    rw [h.afterIntake_token hst (by bv_omega)]
    split
    · exact hok.inv_lengthStep hm (takeByte_cksum_eq (h.cksum_eq (.inr hm)) b)
    · exact hok.inv_headerError
  | readingBody =>
    rw [afterIntake_body (s := takeByte b s) hst hlt]
    exact hok.inv_bodyComplete (h.v5 hst).1 hpos heq h.v1.2
      fun hm => takeByte_cksum_eq (h.cksum_eq (.inr hm)) b
  | complete => exact absurd hst hs

theorem Inv.inv_pollBody {v : Bool} {b : Byte} {s t : State} (h : Inv s) (hb : pollBody v b s = .next t) : Inv t := by
  obtain ⟨-, rfl⟩ | ⟨hs, -, -, rfl⟩ := pollBody_next hb
  · exact h.inv_answer _
  · exact h.inv_afterIntake hs b

theorem Inv.inv_feed {bs : List Byte} {s t : State} (h : Inv s) (hf : feed bs s = .next t) : Inv t := by
  induction bs generalizing s with
  | nil => cases hf; exact h
  | cons b bs ih =>
    obtain ⟨u, hb, hbs⟩ := feed_cons_next hf
    exact ih (h.startOp.inv_pollBody hb) hbs

/-- Two operations with the same body in the state they begin in are the same. -/
theorem operation_congr {s : State} {f g : State → Host.Outcome State Fault Refusal}
    (h : f (startOp s) = g (startOp s)) : operation s f = operation s g := congrArg (ifReady s) h

/-- A row is the POLL of its byte if, in its context, its effect is what POLL makes of that byte. -/
theorem Inv.rxRow_eq_poll {i : Instr} {b : Byte} {row : State → State} {s : State} (h : Inv s)
    (hrow : ∀ u, Inv u → i.wf u.cfg = true → i.inContext (context u) = true →
      u.state ≠ .complete ∧ row (takeByte b u) = afterIntake b (takeByte b u)) :
    rxRow i b row s = exec (.poll true b) s := by
  refine operation_congr ?_
  have hu := h.startOp
  split
  · obtain ⟨hwf, hctx⟩ := Bool.and_eq_true_iff.1 ‹_›
    obtain ⟨hs, heq⟩ := hrow _ hu hwf hctx
    rw [pollBody_of_room hs (hu.room hs), presentByte_of_room (hu.room hs), heq]
  · rfl

/-- The same for a row whose context is Idle. -/
theorem Inv.rxRow_eq_poll_of_idle {i : Instr} {b : Byte} {row : State → State} {s : State} (h : Inv s)
    (hrow : ∀ u, Inv u → i.wf u.cfg = true → i.inContext (context u) = true →
      u.state = .idle ∧ row (takeByte b u) = idleStep b (takeByte b u)) :
    rxRow i b row s = exec (.poll true b) s :=
  h.rxRow_eq_poll fun u hu hwf hctx =>
    have ⟨hs, heq⟩ := hrow u hu hwf hctx
    ⟨by simp [hs], heq.trans (hu.afterIntake_idle hs b).symm⟩

/-! ### Every row is a POLL -/

/-- RX_A_LENGTH is the POLL of the token, which leaves the header's length bytes as they are (log 9). -/
theorem Inv.exec_rxALength_eq_poll {s : State} (h : Inv s) (len : Half) :
    exec (.rxALength len) s = exec (.poll true Config.token) s := by
  rw [exec_rxALength, exec_poll]
  refine operation_congr ?_
  have hu := h.startOp
  split
  · obtain ⟨hctx, hlen⟩ := Bool.and_eq_true_iff.1 ‹_›
    obtain ⟨hs, h4⟩ := (inContext_rxALength _ len).1 hctx
    have hs' : (Machine.startOp s).state ≠ .complete := fun hc => nomatch hs.symm.trans hc
    have hkeep : headerLength (takeByte Config.token (Machine.startOp s)) = len := by
      rw [← of_decide_eq_true hlen, headerLength, headerLength, bufByte_takeByte _ _ _ hu.bufForm,
        bufByte_takeByte _ _ _ hu.bufForm, h4]
      rfl
    rw [pollBody_of_room hs' (hu.room hs'), presentByte_of_room (hu.room hs'), hu.afterIntake_token hs h4, if_pos rfl,
      lengthStep, hkeep, acceptHeader, hkeep]
  · rfl

/-- Under the invariant an instruction that presents a byte is the POLL of it (log 8, log 9). -/
theorem Inv.exec_presented_eq_poll {i : Instr} {b : Byte} {s : State} (h : Inv s) (hp : presented i = some b) :
    exec i s = exec (.poll true b) s := by
  cases i with
  | poll v d =>
    cases v with
    | true => cases hp; rfl
    | false => cases hp
  | rxDetectSignOn d =>
    cases hp
    refine h.rxRow_eq_poll_of_idle fun u hu hwf hctx => ?_
    obtain ⟨hs, hm⟩ := (inContext_rxDetectSignOn u b).1 hctx
    exact ⟨hs, (idleStep_signOn (s := takeByte b u) hm (of_decide_eq_true hwf)).symm⟩
  | rxDetectStart d =>
    cases hp
    refine h.rxRow_eq_poll_of_idle fun u hu hwf hctx => ?_
    obtain ⟨hs, hm⟩ := (inContext_rxDetectStart u b).1 hctx
    obtain rfl : b = Config.start := of_decide_eq_true hwf
    have hne : Config.start ≠ u.cfg.signOn := (Cfg_wf_codes u.cfg hu.cfgOk).1.symm
    exact ⟨hs, (idleStep_start (s := takeByte Config.start u) hm hne rfl).symm⟩
  | rxDetectFail d =>
    cases hp
    refine h.rxRow_eq_poll_of_idle fun u hu hwf hctx => ?_
    obtain ⟨hs, hm⟩ := (inContext_rxDetectFail u b).1 hctx
    obtain ⟨h1, h2⟩ : b ≠ u.cfg.signOn ∧ b ≠ Config.start := by simpa [Instr.wf] using hwf
    exact ⟨hs, (idleStep_fail (s := takeByte b u) hm h1 h2).symm⟩
  | rxAStart d =>
    cases hp
    refine h.rxRow_eq_poll_of_idle fun u hu hwf hctx => ?_
    obtain ⟨hs, hm⟩ := (inContext_rxAStart u b).1 hctx
    obtain rfl : b = Config.start := of_decide_eq_true hwf
    exact ⟨hs, (idleStep_protocolA (b := Config.start) (s := takeByte Config.start u) hm).symm⟩
  | rxABadStart d =>
    cases hp
    refine h.rxRow_eq_poll_of_idle fun u hu hwf hctx => ?_
    obtain ⟨hs, hm⟩ := (inContext_rxABadStart u b).1 hctx
    have hb : b ≠ Config.start := of_decide_eq_true hwf
    exact ⟨hs, by rw [idleStep_protocolA (s := takeByte b u) hm, firstByteA_of_ne hb]⟩
  | rxAToken d =>
    cases hp
    refine h.rxRow_eq_poll fun u hu _ hctx => ?_
    obtain ⟨hs, h4⟩ := (inContext_rxAToken u b).1 hctx
    exact ⟨by simp [hs], (hu.afterIntake_token hs h4 b).symm⟩
  | rxALength len => cases hp; exact h.exec_rxALength_eq_poll len
  | rxBExt d =>
    cases hp
    refine h.rxRow_eq_poll_of_idle fun u hu hwf hctx => ?_
    obtain ⟨hs, hm⟩ := (inContext_rxBExt u b).1 hctx
    have hl : resolveLength (takeByte b u).cfg b = some 2 := if_pos (by simpa [Instr.wf, isExtended] using hwf)
    have hr : (takeByte b u).bytesRead < 2 := by rw [(hu.firstByteTaken hs b).bytesRead]; decide
    refine ⟨hs, ?_⟩
    rw [idleStep_protocolB (s := takeByte b u) hm, firstByteB_of_resolved hl (by decide), enterBodyB_eq, if_pos hr]
  | rxBTable d =>
    cases hp
    refine h.rxRow_eq_poll_of_idle fun u hu hwf hctx => ?_
    obtain ⟨hs, hm⟩ := (inContext_rxBTable u b).1 hctx
    obtain ⟨l, hl, h0⟩ := (isResolved_iff (takeByte b u).cfg b).1 (Bool.and_eq_true_iff.1 hwf).2
    exact ⟨hs, by rw [idleStep_protocolB (s := takeByte b u) hm, firstByteB_of_resolved hl h0, hl, Option.getD_some]⟩
  | rxBUnresolved d =>
    cases hp
    refine h.rxRow_eq_poll_of_idle fun u hu hwf hctx => ?_
    obtain ⟨hs, hm⟩ := (inContext_rxBUnresolved u b).1 hctx
    have hres : isResolved (takeByte b u).cfg b = false := by simpa using (Bool.and_eq_true_iff.1 hwf).2
    exact ⟨hs, by rw [idleStep_protocolB (s := takeByte b u) hm, firstByteB_of_unresolved hres]⟩
  | ensure | send | bufRd | bufWr | getSize | reservedOp67 | reservedOp815 | reservedBits | reset | wireAFrame
  | wireBFrame => cases hp

/-! ### Every step -/

theorem Inv.inv_exec {i : Instr} {s t : State} (h : Inv s) (he : exec i s = .next t) : Inv t := by
  obtain rfl | ⟨w, hw, hp⟩ | ⟨b, hp⟩ | ⟨bs, hw⟩ := instr_kind i
  · cases exec_reset_next he
    exact h.startOp.storageOk.inv_hardReset
  · exact (exec_request_next hw hp he).inv h.startOp
  · rw [h.exec_presented_eq_poll hp] at he
    exact h.startOp.inv_pollBody (operation_next he).2
  · rw [exec_wire hw] at he
    exact h.startOp.inv_feed (operation_next he).2

/-- Settles O10: a step waits, or runs one instruction between two changes of the port, of which the invariant does not
speak. -/
theorem stepKeepsInvariant : Obligations.StepKeepsInvariant := by
  intro s t h hstep
  obtain ⟨-, -, rfl⟩ | ⟨inp, rest, u, -, hexec, rfl⟩ := step_next hstep
  · exact h
  · exact ((h.inv_withPort rest).inv_exec hexec).inv_withPort _

end Sys2Proof.Machine

/-! ## The receive and the transmit stream (20_memory.md R51, R52, R60) -/

namespace Sys2Proof.Machine

/-! ### What an input offered in Complete becomes (40_frame_state_machine.md R101) -/

/-- In Complete an input that offers a byte is the POLL of one, or the row of the length bytes. -/
theorem operationOf_of_complete {x : RxContext} (hx : x.state = .complete) {inp : Input} (ho : offeredBy inp ≠ []) :
    (∃ b, operationOf x inp = .poll true b) ∨ ∃ len, operationOf x inp = .rxALength len := by
  have hrow (b : Byte) : decodeRxByte x b = .poll true b := by simp only [decodeRxByte, hx]
  cases inp with
  | request | reset => exact absurd rfl ho
  | rxByte b => exact .inl ⟨b, hrow b⟩
  | rxLength len => exact .inr ⟨len, rfl⟩
  | wire bs =>
    cases bs with
    | nil => exact absurd rfl ho
    | cons b bs =>
      have hnotIdle : decodeInput x (.wire (b :: bs)) = .error .notIdle := by simp [decodeInput, decodeWire, hx]
      exact .inl ⟨b, (operationOf_error hnotIdle).trans (hrow b)⟩

theorem exec_poll_of_complete {s : State} (hr : Ready s) (hs : s.state = .complete) (v : Bool) (b : Byte) :
    exec (.poll v b) s = .next (answer (pollWord false .incomplete) (startOp s)) :=
  (operation_of_ready hr).trans (pollBody_idle (.inl hs))

theorem exec_rxALength_of_complete {s : State} (hr : Ready s) (hs : s.state = .complete) (len : Half) :
    exec (.rxALength len) s = .next (answer (pollWord false .incomplete) (startOp s)) := by
  have hctx : (Instr.rxALength len).inContext (context (startOp s)) = false := by simp [Instr.inContext, hs]
  rw [exec_rxALength, operation_of_ready hr, hctx]
  exact pollBody_idle (.inl hs)

/-- In Complete an input that offers a byte is answered Incomplete, and nothing of it is consumed. -/
theorem exec_operationOf_of_complete {s : State} (hr : Ready s) (hs : s.state = .complete) {inp : Input}
    (ho : offeredBy inp ≠ []) :
    exec (operationOf (context s) inp) s = .next (answer (pollWord false .incomplete) (startOp s)) := by
  obtain ⟨b, hop⟩ | ⟨len, hop⟩ := operationOf_of_complete (x := context s) hs ho <;> rw [hop]
  · exact exec_poll_of_complete hr hs true b
  · exact exec_rxALength_of_complete hr hs len

/-! ### Where an unconsumed input stands -/

/-- Of an input of which no byte was consumed all is left. -/
theorem leftOf_zero {inp : Input} (ho : offeredBy inp ≠ []) : leftOf 0 inp = some inp := by
  cases inp with
  | request | reset => exact absurd rfl ho
  | rxByte | rxLength => rfl
  | wire bs => exact if_neg fun hlen => ho (List.eq_nil_of_length_eq_zero (Nat.le_zero.1 hlen))

theorem portAfter_zero {inp : Input} (ho : offeredBy inp ≠ []) (port : List Input) :
    portAfter inp 0 port = offerAgain inp port := by
  simp only [portAfter, leftOf_zero ho, if_true]

theorem nextOfClient_eq_none {port : List Input} (h : ∀ c ∈ port, fromClient c = false) : nextOfClient port = none := by
  induction port with
  | nil => rfl
  | cons inp rest ih =>
    obtain ⟨hinp, hrest⟩ := List.forall_mem_cons.1 h
    simp [nextOfClient, hinp, ih hrest]

theorem nextOfClient_append {pre post : List Input} {c : Input} (hpre : ∀ x ∈ pre, fromClient x = false)
    (hc : fromClient c = true) : nextOfClient (pre ++ c :: post) = some (c, pre ++ post) := by
  induction pre with
  | nil => exact if_pos hc
  | cons inp rest ih =>
    obtain ⟨hinp, hrest⟩ := List.forall_mem_cons.1 hpre
    simp [nextOfClient, hinp, ih hrest]

/-- Settles O14: the step is a POLL in vain, and its whole input is put back by `offerAgain`, whose place in the port depends
on where the client's next input is. -/
theorem unconsumedInputIsOfferedAgain : Obligations.UnconsumedInputIsOfferedAgain := by
  intro s inp rest hr hs hp ho
  refine ⟨?_, offered_offerAgain inp rest, fun hrest => ?_, fun pre c post hrest hpre hc => ?_⟩
  · have hexec := exec_operationOf_of_complete (s := withPort rest s) hr hs ho
    have hport : portAfter inp (s.rxStream.length - s.rxStream.length) rest = offerAgain inp rest := by
      rw [Nat.sub_self, portAfter_zero ho]
    calc step s = settle inp s (exec (operationOf (context s) inp) (withPort rest s)) := step_of_port_cons hp
      _ = settle inp s (.next (answer (pollWord false .incomplete) (startOp (withPort rest s)))) :=
          congrArg (settle inp s) hexec
      _ = _ := by rw [← hport]; rfl
  · rw [offerAgain, nextOfClient_eq_none hrest]
  · rw [offerAgain, hrest, nextOfClient_append hpre hc]

/-! ### What a presented byte does to the streams -/

/-- What follows the intake of a byte answers the POLL; it leaves the receive stream as the intake made it, and transmits
nothing but the checksum-error response (40_frame_state_machine.md R117, R119). -/
structure AnswersByte (s t : State) : Prop where
  rxStream : t.rxStream = s.rxStream
  answered : ∃ k sent, t.result = some (pollWord true k) ∧ t.txStream = s.txStream ++ sent ∧
    t.txLast = s.txLast ++ sent ∧ (sent ≠ [] → k = .checksumError)

theorem AnswersByte.of_silent {k : PollKind} {s t : State} (hrx : t.rxStream = s.rxStream)
    (hresult : t.result = some (pollWord true k)) (htx : t.txStream = s.txStream) (hlast : t.txLast = s.txLast) :
    AnswersByte s t :=
  ⟨hrx, k, [], hresult, by rw [htx, List.append_nil], by rw [hlast, List.append_nil], fun h => absurd rfl h⟩

theorem incomplete_answersByte (s : State) : AnswersByte s (incomplete s) := .of_silent rfl rfl rfl rfl

theorem headerError_answersByte (s : State) : AnswersByte s (headerError s) := .of_silent rfl rfl rfl rfl

theorem bodyComplete_answersByte (s : State) : AnswersByte s (bodyComplete s) := by
  unfold bodyComplete
  split
  · exact ⟨rfl, .checksumError, _, rfl, rfl, rfl, fun _ => rfl⟩
  · exact .of_silent rfl rfl rfl rfl

theorem lengthStep_answersByte (s : State) : AnswersByte s (lengthStep s) := by
  unfold lengthStep
  split <;> exact .of_silent rfl rfl rfl rfl

theorem headerStep_answersByte (s : State) : AnswersByte s (headerStep s) := by
  unfold headerStep
  split
  · exact headerError_answersByte s
  · exact lengthStep_answersByte s

theorem firstByteA_answersByte (b : Byte) (s : State) : AnswersByte s (firstByteA b s) := by
  unfold firstByteA
  split <;> exact .of_silent rfl rfl rfl rfl

theorem awaitIncomplete_answersByte (st : ParserState) (n : Half) (s : State) :
    AnswersByte s (incomplete (await st n s)) := .of_silent rfl rfl rfl rfl

theorem enterBodyB_answersByte (l : Half) (s : State) : AnswersByte s (enterBodyB l s) := by
  rw [enterBodyB_eq]
  split
  · exact awaitIncomplete_answersByte _ _ s
  · have h := bodyComplete_answersByte (await .readingBody l s)
    exact ⟨h.rxStream, h.answered⟩

theorem firstByteB_answersByte (b : Byte) (s : State) : AnswersByte s (firstByteB b s) := by
  unfold firstByteB
  split
  · exact headerError_answersByte s
  · split
    · exact headerError_answersByte s
    · exact enterBodyB_answersByte _ s

/-- The detection of a protocol touches no stream. -/
theorem AnswersByte.of_select {m : Mode} {s t : State} (h : AnswersByte { s with mode := m } t) : AnswersByte s t :=
  ⟨h.rxStream, h.answered⟩

theorem idleStep_answersByte (b : Byte) (s : State) : AnswersByte s (idleStep b s) := by
  unfold idleStep
  split
  · split
    · exact (firstByteB_answersByte b _).of_select
    · split
      · exact (firstByteA_answersByte b _).of_select
      · exact headerError_answersByte s
  · exact firstByteA_answersByte b s
  · exact firstByteB_answersByte b s

theorem afterIntake_answersByte (b : Byte) (s : State) : AnswersByte s (afterIntake b s) := by
  unfold afterIntake
  split
  · exact incomplete_answersByte s
  · split
    · exact idleStep_answersByte b s
    · exact headerStep_answersByte s
    · exact bodyComplete_answersByte s
    · exact incomplete_answersByte s

/-- What an operation that presents `bs` does to the streams: it consumes the first bytes of `bs`, and appends what it
transmits. -/
structure ExtendsStreams (bs : List Byte) (s t : State) : Prop where
  consumed : ∃ taken, taken <+: bs ∧ t.rxStream = s.rxStream ++ taken
  transmitted : s.txStream <+: t.txStream

theorem ExtendsStreams.of_kept {bs : List Byte} {s t : State} (hrx : t.rxStream = s.rxStream)
    (htx : s.txStream <+: t.txStream) : ExtendsStreams bs s t :=
  ⟨⟨[], List.nil_prefix, by rw [hrx, List.append_nil]⟩, htx⟩

/-- After an operation that presents one byte: the byte was consumed or not, and what was transmitted is the checksum-error
response. -/
structure PollsByte (b : Byte) (s t : State) : Prop where
  consumed : t.rxStream = s.rxStream ∨ t.rxStream = s.rxStream ++ [b]
  transmitted : t.txStream = s.txStream ++ t.txLast
  onlyChecksumError : t.txLast ≠ [] → t.result = some (pollWord true .checksumError)

theorem PollsByte.extendsStreams {b : Byte} {s t : State} (h : PollsByte b s t) : ExtendsStreams [b] s t := by
  have htx : s.txStream <+: t.txStream := ⟨t.txLast, h.transmitted.symm⟩
  obtain hrx | hrx := h.consumed
  · exact .of_kept hrx htx
  · exact ⟨⟨[b], List.prefix_rfl, hrx⟩, htx⟩

theorem AnswersByte.pollsByte {b : Byte} {s t : State} (h : AnswersByte (takeByte b (startOp s)) t) :
    PollsByte b s t := by
  obtain ⟨hrx, k, sent, hresult, htx, hlast, hk⟩ := h
  obtain rfl : t.txLast = sent := hlast
  exact ⟨.inr hrx, htx, fun hne => hk hne ▸ hresult⟩

theorem pollBody_pollsByte {v : Bool} {b : Byte} {s t : State} (h : pollBody v b (startOp s) = .next t) :
    PollsByte b s t := by
  obtain ⟨-, rfl⟩ | ⟨-, -, -, rfl⟩ := pollBody_next h
  · exact ⟨.inl rfl, (List.append_nil _).symm, fun hne => absurd rfl hne⟩
  · exact (afterIntake_answersByte b _).pollsByte

theorem rxRow_pollsByte {i : Instr} {b : Byte} {row : State → State} {s t : State} (h : rxRow i b row s = .next t)
    (hrow : ∀ u, AnswersByte u (row u)) : PollsByte b s t := by
  have hb := (operation_next h).2
  split at hb
  · obtain ⟨-, rfl⟩ := presentByte_next hb
    exact (hrow _).pollsByte
  · exact pollBody_pollsByte hb

theorem exec_rxALength_pollsByte {len : Half} {s t : State} (h : exec (.rxALength len) s = .next t) :
    PollsByte Config.token s t := by
  have hb := (operation_next ((exec_rxALength s len).symm.trans h)).2
  split at hb
  · obtain ⟨-, rfl⟩ := presentByte_next hb
    refine AnswersByte.pollsByte ?_
    split <;> exact .of_silent rfl rfl rfl rfl
  · exact pollBody_pollsByte hb

/-- An instruction that presents a byte, in the context of its row or out of it, does to the streams what a POLL does. -/
theorem exec_presented_pollsByte {i : Instr} {b : Byte} {s t : State} (hp : presented i = some b)
    (h : exec i s = .next t) : PollsByte b s t := by
  cases i with
  | poll v d =>
    cases v with
    | true => cases hp; exact pollBody_pollsByte (operation_next h).2
    | false => cases hp
  | rxDetectSignOn d => cases hp; exact rxRow_pollsByte h fun _ => (firstByteB_answersByte b _).of_select
  | rxDetectStart d => cases hp; exact rxRow_pollsByte h fun _ => (awaitIncomplete_answersByte _ _ _).of_select
  | rxDetectFail d => cases hp; exact rxRow_pollsByte h headerError_answersByte
  | rxAStart d => cases hp; exact rxRow_pollsByte h (awaitIncomplete_answersByte _ _)
  | rxABadStart d => cases hp; exact rxRow_pollsByte h headerError_answersByte
  | rxAToken d =>
    cases hp
    refine rxRow_pollsByte h fun u => ?_
    split
    · exact lengthStep_answersByte u
    · exact headerError_answersByte u
  | rxALength len => cases hp; exact exec_rxALength_pollsByte h
  | rxBExt d => cases hp; exact rxRow_pollsByte h (awaitIncomplete_answersByte _ _)
  | rxBTable d => cases hp; exact rxRow_pollsByte h fun u => enterBodyB_answersByte _ u
  | rxBUnresolved d => cases hp; exact rxRow_pollsByte h headerError_answersByte
  | ensure | send | bufRd | bufWr | getSize | reservedOp67 | reservedOp815 | reservedBits | reset | wireAFrame
  | wireBFrame => cases hp

/-! ### What a request, a frame and any other instruction do to the streams -/

theorem RequestEffect.transmitted {s t : State} (h : RequestEffect (startOp s) t) :
    t.txStream = s.txStream ++ t.txLast := by
  cases h with
  | respond status size => rfl
  | fault | answer | raise | store => exact (List.append_nil _).symm

/-- In Complete the POLLs of a sequence of bytes consume nothing and transmit nothing. -/
theorem feed_of_complete {s : State} (hs : s.state = .complete) (b : Byte) (bs : List Byte) :
    feed (b :: bs) s = .next (answer (pollWord false .incomplete) (startOp s)) := by
  induction bs generalizing s b with
  | nil => simp only [feed, pollBody_idle (s := startOp s) (.inl hs)]
  | cons c bs ih =>
    rw [feed, pollBody_idle (s := startOp s) (.inl hs)]
    exact ih hs c

theorem feed_extendsStreams {bs : List Byte} {s t : State} (h : feed bs s = .next t) : ExtendsStreams bs s t := by
  induction bs generalizing s with
  | nil => cases h; exact .of_kept rfl List.prefix_rfl
  | cons b bs ih =>
    by_cases hs : s.state = .complete
    · rw [feed_of_complete hs] at h
      cases h; exact .of_kept rfl List.prefix_rfl
    · obtain ⟨u, hb, hbs⟩ := feed_cons_next h
      obtain ⟨hc | hc, -⟩ | ⟨-, -, -, rfl⟩ := pollBody_next hb
      · exact absurd hc hs
      · cases hc
      · obtain ⟨⟨taken, hpre, hrx⟩, htx⟩ := ih hbs
        refine ⟨⟨b :: taken, List.cons_prefix_cons.2 ⟨rfl, hpre⟩, ?_⟩, ?_⟩
        · rw [hrx, (afterIntake_answersByte b _).rxStream, takeByte_rxStream, startOp_rxStream, List.append_assoc]; rfl
        · exact (pollBody_pollsByte hb).extendsStreams.transmitted.trans htx

/-- The received bytes that an instruction presents, in order: those of a frame, or the byte of one POLL (30_encoding.md
R85). -/
def presentedBytes (i : Instr) : List Byte :=
  match encode i with
  | .wire bs => bs
  | .request _ | .reset | .rxByte _ | .rxLength _ => (presented i).toList

theorem presentedBytes_of_wire {i : Instr} {bs : List Byte} (hw : encode i = .wire bs) : presentedBytes i = bs := by
  simp only [presentedBytes, hw]

theorem presentedBytes_of_presented {i : Instr} {b : Byte} (hp : presented i = some b) : presentedBytes i = [b] := by
  cases i with
  | wireAFrame | wireBFrame => cases hp
  | poll | ensure | send | bufRd | bufWr | getSize | reservedOp67 | reservedOp815 | reservedBits | reset | rxDetectSignOn
  | rxDetectStart | rxDetectFail | rxAStart | rxABadStart | rxAToken | rxALength | rxBExt | rxBTable | rxBUnresolved =>
    exact congrArg Option.toList hp

theorem exec_extendsStreams {i : Instr} {s t : State} (h : exec i s = .next t) :
    ExtendsStreams (presentedBytes i) s t := by
  obtain rfl | ⟨w, hw, hp⟩ | ⟨b, hp⟩ | ⟨bs, hw⟩ := instr_kind i
  · cases exec_reset_next h; exact .of_kept rfl List.prefix_rfl
  · have he := exec_request_next hw hp h
    exact .of_kept he.kept.rxStream ⟨t.txLast, he.transmitted.symm⟩
  · rw [presentedBytes_of_presented hp]
    exact (exec_presented_pollsByte hp h).extendsStreams
  · rw [presentedBytes_of_wire hw]
    have hf := feed_extendsStreams (operation_next ((exec_wire hw s).symm.trans h)).2
    exact ⟨hf.consumed, hf.transmitted⟩

/-- Settles O21: a step waits, or runs one instruction, which extends both streams, between two changes of the port. -/
theorem streamsOnlyGrow : Obligations.StreamsOnlyGrow := by
  intro s t hstep
  obtain ⟨-, -, rfl⟩ | ⟨inp, rest, u, -, hexec, rfl⟩ := step_next hstep
  · exact ⟨List.prefix_rfl, List.prefix_rfl⟩
  · obtain ⟨⟨taken, -, hrx⟩, htx⟩ := exec_extendsStreams hexec
    exact ⟨htx, taken, hrx.symm⟩

/-! ### The bytes an input offers are those its instruction presents -/

theorem decodeRxByte_presents (x : RxContext) (b : Byte) : presented (decodeRxByte x b) = some b := by
  have hidleB (c : Cfg) : presented (decodeIdleB c b) = some b := by
    unfold decodeIdleB
    split
    · rfl
    · split
      · rfl
      · split <;> rfl
  unfold decodeRxByte
  split
  · split
    · split
      · rfl
      · split <;> rfl
    · split <;> rfl
    · exact hidleB x.cfg
  · split <;> rfl
  · rfl
  · rfl

theorem hi8_be16 (h l : Byte) : hi8 (be16 h l) = h := BitVec.extractLsb'_append_eq_left
theorem lo8_be16 (h l : Byte) : lo8 (be16 h l) = l := BitVec.extractLsb'_append_eq_right

/-- A burst read as a ProtocolA frame is that frame's bytes (30_encoding.md R78). -/
theorem encode_of_decodeFrameA {bs : List Byte} {i : Instr} (h : decodeFrameA bs = .ok i) : encode i = .wire bs := by
  unfold decodeFrameA at h
  split at h
  · rename_i st q hb lb tk rest
    split at h
    · cases h
    split at h
    · cases h
    split at h
    · cases h
    rename_i hst htk hlen
    cases h
    obtain rfl := not_not.1 hst
    obtain rfl := not_not.1 htk
    have hlen := not_not.1 hlen
    have hne : rest ≠ [] := List.ne_nil_of_length_eq_add_one hlen
    have hbody : BitVec.ofNat 16 rest.dropLast.length = be16 hb lb := by
      rw [List.length_dropLast, hlen, Nat.add_sub_cancel, BitVec.ofNat_toNat, BitVec.setWidth_eq]
    have hrest : rest.dropLast ++ [rest.getLastD 0] = rest := by
      rw [List.getLastD_eq_getLast?, List.getLast?_eq_getLast_of_ne_nil hne, Option.getD_some,
        List.dropLast_append_getLast hne]
    show Input.wire (frameA q rest.dropLast (rest.getLastD 0)) = _
    rw [frameA, hbody, headerA, hi8_be16, lo8_be16, List.append_assoc, hrest]
    rfl
  · cases h

/-- A burst read as a ProtocolB frame is that frame's bytes (30_encoding.md R79). -/
theorem encode_of_decodeFrameB {c : Cfg} {bs : List Byte} {i : Instr} (h : decodeFrameB c bs = .ok i) :
    encode i = .wire bs := by
  unfold decodeFrameB at h
  split at h
  · split at h
    · cases h
    · split at h <;> cases h
      rfl
  · cases h

theorem encode_of_decodeWire {x : RxContext} {bs : List Byte} {i : Instr} (h : decodeWire x bs = .ok i) :
    encode i = .wire bs := by
  unfold decodeWire at h
  split at h
  · cases h
  · split at h
    · cases h
    · split at h
      · exact encode_of_decodeFrameA h
      · exact encode_of_decodeFrameB h
      · split at h
        · exact encode_of_decodeFrameB h
        · split at h
          · exact encode_of_decodeFrameA h
          · cases h

/-- Of an input of the transport, and of a reset pulse, the instruction presents the first bytes that it offers: of a burst
that is no frame one byte, else all. -/
theorem presentedBytes_operationOf (x : RxContext) {inp : Input} (hinp : ∀ w, inp ≠ .request w) :
    presentedBytes (operationOf x inp) <+: offeredBy inp := by
  cases inp with
  | request w => exact absurd rfl (hinp w)
  | reset | rxLength => exact List.prefix_rfl
  | rxByte b =>
    show presentedBytes (decodeRxByte x b) <+: [b]
    rw [presentedBytes_of_presented (decodeRxByte_presents x b)]
  | wire bs =>
    cases hd : decodeInput x (.wire bs) with
    | ok i => rw [operationOf_ok hd, presentedBytes_of_wire (encode_of_decodeWire hd)]; exact List.prefix_rfl
    | error e =>
      rw [operationOf_error hd]
      cases bs with
      | nil => exact List.prefix_rfl
      | cons b bs =>
        show presentedBytes (decodeRxByte x b) <+: b :: bs
        rw [presentedBytes_of_presented (decodeRxByte_presents x b)]
        exact List.prefix_append [b] bs

/-- Settles O13: the operation consumes the first bytes that its input offers, and the port keeps the others. -/
theorem receivedBytesAreNeverLost : Obligations.ReceivedBytesAreNeverLost := by
  intro s t hstep hrequest
  obtain ⟨-, -, rfl⟩ | ⟨inp, rest, u, hp, hexec, rfl⟩ := step_next hstep
  · rfl
  obtain ⟨taken, hpre, hrx⟩ := (exec_extendsStreams hexec).consumed
  have hinp (w : Word) : inp ≠ .request w := fun he => hrequest w rest (he ▸ hp)
  obtain ⟨left, hleft⟩ := hpre.trans (presentedBytes_operationOf (context s) hinp)
  have hport : u.port = rest := (configurationIsConstant _ _ _ hexec).2.1
  have hrx : u.rxStream = s.rxStream ++ taken := hrx
  have hcount : u.rxStream.length - s.rxStream.length = taken.length := by rw [hrx, List.length_append]; omega
  calc u.rxStream ++ offered (portAfter inp (u.rxStream.length - s.rxStream.length) u.port)
      = s.rxStream ++ taken ++ ((taken ++ left).drop taken.length ++ offered rest) := by
        rw [offered_portAfter, hcount, hport, hrx, hleft]
    _ = s.rxStream ++ ((taken ++ left) ++ offered rest) := by simp
    _ = s.rxStream ++ offered s.port := by rw [hleft, hp]; rfl

/-! ### Which requests transmit -/

/-- Every request word is decoded to an instruction of the command port. -/
theorem decodeWord_isRequest (w : Word) : ∃ w', encode (decodeWord w) = .request w' := by
  unfold decodeWord
  split
  · exact ⟨_, rfl⟩
  · split <;> exact ⟨_, rfl⟩

/-- Of the requests that present no byte only SEND transmits. -/
theorem exec_request_silent {i : Instr} {w : Word} {s t : State} (hw : encode i = .request w) (hp : presented i = none)
    (hsend : ∀ st n, i ≠ .send st n) (h : exec i s = .next t) : t.txLast = [] := by
  have access {w : Word} {addr : Half} {f : State → State} (h : bufAccess w addr f s = .next t)
      (hf : (f (startOp s)).txLast = []) : t.txLast = [] := by
    obtain ⟨r, rfl⟩ | ⟨-, -, rfl⟩ := bufAccess_next h
    · rfl
    · exact hf
  cases i with
  | send st n => exact absurd rfl (hsend st n)
  | poll v b =>
    cases v with
    | false =>
      have hb := (operation_next h).2
      rw [pollBody_idle (.inr rfl)] at hb
      cases hb; rfl
    | true => cases hp
  | ensure req =>
    have hb := (operation_next ((exec_ensure s req).symm.trans h)).2
    split at hb
    · cases hb; rfl
    · split at hb
      · cases hb; rfl
      · split at hb <;> cases hb <;> rfl
  | bufRd addr => exact access h rfl
  | bufWr data addr =>
    change execBufWr data addr s = _ at h
    exact access h rfl
  | getSize => cases (operation_next ((exec_getSize s).symm.trans h)).2; rfl
  | reservedOp67 low => cases (operation_next ((exec_reservedOp67 s low).symm.trans h)).2; rfl
  | reservedOp815 low => cases (operation_next ((exec_reservedOp815 s low).symm.trans h)).2; rfl
  | reservedBits w => cases (operation_next ((exec_reservedBits s w).symm.trans h)).2; rfl
  | reset | rxDetectSignOn | rxDetectStart | rxDetectFail | rxAStart | rxABadStart | rxAToken | rxALength | rxBExt
  | rxBTable | rxBUnresolved | wireAFrame | wireBFrame => cases hw

/-- The only request word that presents a byte is a POLL's. -/
theorem eq_poll_of_presented {i : Instr} {w : Word} {b : Byte} (hw : encode i = .request w) (hp : presented i = some b) :
    i = .poll true b := by
  cases i with
  | poll v d =>
    cases v with
    | true => cases hp; rfl
    | false => cases hp
  | ensure | send | bufRd | bufWr | getSize | reservedOp67 | reservedOp815 | reservedBits => cases hp
  | reset | rxDetectSignOn | rxDetectStart | rxDetectFail | rxAStart | rxABadStart | rxAToken | rxALength | rxBExt
  | rxBTable | rxBUnresolved | wireAFrame | wireBFrame => cases hw

/-- Settles O22: a request presents a byte, and is a POLL, or it presents none, and is silent but for SEND. -/
theorem onlySendAndChecksumErrorTransmit : Obligations.OnlySendAndChecksumErrorTransmit := by
  intro w s t h
  obtain ⟨w', hw⟩ := decodeWord_isRequest w
  cases hp : presented (decodeWord w) with
  | some b =>
    have hpolls := exec_presented_pollsByte hp h
    exact ⟨hpolls.transmitted, fun hne => .inr ⟨⟨b, eq_poll_of_presented hw hp⟩, hpolls.onlyChecksumError hne⟩⟩
  | none =>
    refine ⟨(exec_request_next hw hp h).transmitted, fun hne => .inl ?_⟩
    by_contra hsend
    exact hne (exec_request_silent hw hp (fun st n he => hsend ⟨st, n, he⟩) h)

end Sys2Proof.Machine

/-! ## The encodings (30_encoding.md): decoder and encoder are inverse to each other -/

namespace Sys2Proof

/-! ### Request words, by the value of their fields (30_encoding.md R71) -/

theorem opOf_eq_div (w : Word) : opOf w = w.toNat / 2 ^ 28 := by
  have := w.isLt
  simp only [opOf, BitVec.extractLsb'_toNat, Nat.shiftRight_eq_div_pow]
  omega

theorem field_eq_of_toNat {w : Word} {lo n : Nat} {x : BitVec n} (h : w.toNat / 2 ^ lo % 2 ^ n = x.toNat) :
    w.extractLsb' lo n = x := by
  apply BitVec.eq_of_toNat_eq
  rw [BitVec.extractLsb'_toNat, Nat.shiftRight_eq_div_pow, h]

theorem field_toNat (w : Word) (lo n : Nat) : (w.extractLsb' lo n).toNat = w.toNat / 2 ^ lo % 2 ^ n := by
  rw [BitVec.extractLsb'_toNat, Nat.shiftRight_eq_div_pow]

theorem bit_toNat (w : Word) (i : Nat) : (w.getLsbD i).toNat = w.toNat / 2 ^ i % 2 := Nat.toNat_testBit _ _

/-- A word with none of a mask's bits is zero in every field that the mask covers. -/
theorem field_eq_zero_of_and {w mask : Word} {lo n : Nat} (h : w &&& mask = 0)
    (hm : mask.extractLsb' lo n = BitVec.allOnes n) : w.toNat / 2 ^ lo % 2 ^ n = 0 := by
  have hfield : w.extractLsb' lo n = 0#n := by
    rw [← BitVec.and_allOnes (x := w.extractLsb' lo n), ← hm, ← BitVec.extractLsb'_and, h]
    simp
  rw [← field_toNat, hfield, BitVec.toNat_zero]

/-- A word has no reserved bit set where the field from bit `lo` up to the operation code, which holds them, is zero. -/
theorem no_reserved_bit {w : Word} {op lo : Nat} (hop : opOf w = op) (hw : w.toNat / 2 ^ lo % 2 ^ (28 - lo) = 0)
    (hlo : lo ≤ 28) (hm : ∀ i < 32, (reservedMask op).getLsbD i = true → lo ≤ i ∧ i < 28) :
    ¬ (w &&& reservedMask (opOf w) ≠ 0) := by
  rw [hop, and_eq_zero_of_shift hw hlo hm]
  simp

theorem decodeWord_pollRequest (v : Bool) (d : Byte) : decodeWord (pollRequest v d) = .poll v d := by
  have hw := pollRequest_toNat v d
  have hd := d.isLt
  have hv := v.toNat_le
  have hop : opOf (pollRequest v d) = 0 := by rw [opOf_eq_div]; omega
  have hbit : (pollRequest v d).getLsbD 8 = v := by
    simp only [pollRequest, BitVec.getLsbD_append]
    cases v <;> rfl
  rw [decodeWord, if_neg (no_reserved_bit (lo := 9) hop (by omega) (by decide) (by decide)), hop, hbit]
  exact congrArg (Instr.poll v) (field_eq_of_toNat (by omega))

theorem decodeWord_ensureRequest (req : Half) : decodeWord (ensureRequest req) = .ensure req := by
  have hw := ensureRequest_toNat req
  have hreq := req.isLt
  have hop : opOf (ensureRequest req) = 1 := by rw [opOf_eq_div]; omega
  rw [decodeWord, if_neg (no_reserved_bit (lo := 16) hop (by omega) (by decide) (by decide)), hop]
  exact congrArg Instr.ensure (field_eq_of_toNat (by omega))

theorem decodeWord_sendRequest (st : Byte) (n : Half) : decodeWord (sendRequest st n) = .send st n := by
  have hw := sendRequest_toNat st n
  have hst := st.isLt
  have hn := n.isLt
  have hop : opOf (sendRequest st n) = 2 := by rw [opOf_eq_div]; omega
  rw [decodeWord, if_neg (no_reserved_bit (lo := 24) hop (by omega) (by decide) (by decide)), hop]
  exact congrArg₂ Instr.send (field_eq_of_toNat (by omega)) (field_eq_of_toNat (by omega))

theorem decodeWord_bufRdRequest (addr : Half) : decodeWord (bufRdRequest addr) = .bufRd addr := by
  have hw := bufRdRequest_toNat addr
  have haddr := addr.isLt
  have hop : opOf (bufRdRequest addr) = 3 := by rw [opOf_eq_div]; omega
  rw [decodeWord, if_neg (no_reserved_bit (lo := 16) hop (by omega) (by decide) (by decide)), hop]
  exact congrArg Instr.bufRd (field_eq_of_toNat (by omega))

theorem decodeWord_bufWrRequest (data : Byte) (addr : Half) : decodeWord (bufWrRequest data addr) = .bufWr data addr := by
  have hw := bufWrRequest_toNat data addr
  have hdata := data.isLt
  have haddr := addr.isLt
  have hop : opOf (bufWrRequest data addr) = 4 := by rw [opOf_eq_div]; omega
  rw [decodeWord, if_neg (no_reserved_bit (lo := 24) hop (by omega) (by decide) (by decide)), hop]
  exact congrArg₂ Instr.bufWr (field_eq_of_toNat (by omega)) (field_eq_of_toNat (by omega))

theorem decodeWord_reservedOp67Request (low : BitVec 29) :
    decodeWord (reservedOp67Request low) = .reservedOp67 low := by
  have hw := reservedOp67Request_toNat low
  have hlow := low.isLt
  have hfield : (reservedOp67Request low).extractLsb' 0 29 = low := field_eq_of_toNat (by omega)
  obtain hop | hop : opOf (reservedOp67Request low) = 6 ∨ opOf (reservedOp67Request low) = 7 := by
    rw [opOf_eq_div]; omega
  all_goals simp [decodeWord, hop, reservedMask, hfield]

theorem decodeWord_of_high {w : Word} (h : 8 ≤ opOf w) : decodeWord w = .reservedOp815 (w.extractLsb' 0 31) := by
  have hlt : opOf w < 16 := (w.extractLsb' 28 4).isLt
  unfold decodeWord
  generalize opOf w = op at *
  interval_cases op <;> simp [reservedMask]

theorem decodeWord_reservedOp815Request (low : BitVec 31) :
    decodeWord (reservedOp815Request low) = .reservedOp815 low := by
  have hw := reservedOp815Request_toNat low
  have hlow := low.isLt
  rw [decodeWord_of_high (by rw [opOf_eq_div]; omega), field_eq_of_toNat (x := low) (by omega)]

theorem decodeWord_of_reservedBits {w : Word} (h : w &&& reservedMask (opOf w) ≠ 0) : decodeWord w = .reservedBits w :=
  if_pos h

/-- The reserved field of an operation code is zero in a word with no reserved bit. -/
theorem reserved_field_eq_zero {w : Word} {op lo n : Nat} (hop : opOf w = op) (h : w &&& reservedMask (opOf w) = 0)
    (hm : (reservedMask op).extractLsb' lo n = BitVec.allOnes n) : w.toNat / 2 ^ lo % 2 ^ n = 0 :=
  field_eq_zero_of_and (hop ▸ h) hm

/-- Every request word is the encoding of what it decodes to: one case for each operation code, in the decoder's order. -/
theorem encode_decodeWord (w : Word) : encode (decodeWord w) = .request w := by
  have hw := opOf_eq_div w
  have hlt := w.isLt
  have same {v : Word} (h : v.toNat = w.toNat) : Input.request v = .request w :=
    congrArg Input.request (BitVec.eq_of_toNat_eq h)
  by_cases hhigh : 8 ≤ opOf w
  · rw [decodeWord_of_high hhigh]
    exact same (by rw [reservedOp815Request_toNat, field_toNat]; omega)
  unfold decodeWord
  split
  · rfl
  rename_i hres
  replace hres := not_not.1 hres
  split
  case _ hop =>
    have hzero := reserved_field_eq_zero (lo := 9) (n := 19) hop hres (by decide)
    exact same (by rw [pollRequest_toNat, bit_toNat, field_toNat]; omega)
  case _ hop =>
    have hzero := reserved_field_eq_zero (lo := 16) (n := 12) hop hres (by decide)
    exact same (by rw [ensureRequest_toNat, field_toNat]; omega)
  case _ hop =>
    have hzero := reserved_field_eq_zero (lo := 24) (n := 4) hop hres (by decide)
    exact same (by rw [sendRequest_toNat, field_toNat, field_toNat]; omega)
  case _ hop =>
    have hzero := reserved_field_eq_zero (lo := 16) (n := 12) hop hres (by decide)
    exact same (by rw [bufRdRequest_toNat, field_toNat]; omega)
  case _ hop =>
    have hzero := reserved_field_eq_zero (lo := 24) (n := 4) hop hres (by decide)
    exact same (by rw [bufWrRequest_toNat, field_toNat, field_toNat]; omega)
  case _ hop =>
    have hzero := reserved_field_eq_zero (lo := 0) (n := 28) hop hres (by decide)
    exact same (by rw [show getSizeRequest.toNat = 0x50000000 from rfl]; omega)
  case _ hop => exact same (by rw [reservedOp67Request_toNat, field_toNat]; omega)
  case _ hop => exact same (by rw [reservedOp67Request_toNat, field_toNat]; omega)
  case _ =>
    simp only [imp_false] at *
    omega

/-- Settles O3: only a word with a reserved bit is read as `reservedBits`, and every word encodes its operation. -/
theorem encodeOfDecodedWord : Obligations.EncodeOfDecodedWord := by
  refine fun x w => ⟨?_, encode_decodeWord w⟩
  unfold decodeWord
  split
  · exact decide_eq_true ‹_›
  · split <;> rfl

/-- Settles O1: each word is that of its request, and the last two have a reserved bit. -/
theorem requestWordsOfTheSpec : Obligations.RequestWordsOfTheSpec :=
  ⟨decodeWord_pollRequest true 0x1B, decodeWord_pollRequest false 0xAB, decodeWord_ensureRequest 282,
    decodeWord_sendRequest 0x10 2, decodeWord_bufRdRequest 280, decodeWord_bufWrRequest 0x99 2, rfl,
    decodeWord_reservedOp67Request 0, decodeWord_reservedOp815Request 0x70000000,
    decodeWord_of_reservedBits (by decide), decodeWord_of_reservedBits (by decide)⟩

/-! ### Received bytes in Idle and ProtocolB (30_encoding.md R82, 40_frame_state_machine.md R109) -/

theorem isExtended_iff (c : Cfg) (b : Byte) : isExtended c b = true ↔ b = c.ext0 ∨ b = c.ext1 := by
  simp [isExtended]

theorem decodeIdleB_of_extended {c : Cfg} {b : Byte} (h : isExtended c b = true) : decodeIdleB c b = .rxBExt b :=
  if_pos ((isExtended_iff c b).1 h)

theorem decodeIdleB_of_not_extended {c : Cfg} {b : Byte} (h : isExtended c b = false) :
    decodeIdleB c b = if isResolved c b then .rxBTable b else .rxBUnresolved b := by
  have hne : ¬ (b = c.ext0 ∨ b = c.ext1) := fun he => by simp [(isExtended_iff c b).2 he] at h
  rw [decodeIdleB, if_neg hne, isResolved]
  cases resolveLength c b with
  | none => rfl
  | some l => by_cases h0 : l = 0 <;> simp [h0]

/-! ### The map of received bytes (30_encoding.md R82) -/

/-- `i` is a row of the received-byte map that stands in the context and carries the byte (30_encoding.md R82). -/
structure RowOf (x : RxContext) (b : Byte) (i : Instr) : Prop where
  wf : i.wf x.cfg = true
  inContext : i.inContext x = true
  carries : encode i = .rxByte b

/-- A byte is read as its row. -/
theorem RowOf.decodeRxByte_eq {x : RxContext} {i : Instr} {b : Byte} (hc : x.cfg.wf = true) (h : RowOf x b i) :
    decodeRxByte x b = i := by
  obtain ⟨hwf, hctx, hb⟩ := h
  cases i with
  | rxDetectSignOn d =>
    cases hb
    obtain ⟨hs, hm⟩ : x.state = .idle ∧ x.mode = .undetermined := by simpa [Instr.inContext] using hctx
    simp only [decodeRxByte, hs, hm, if_pos (of_decide_eq_true hwf)]
  | rxDetectStart d =>
    cases hb
    obtain ⟨hs, hm⟩ : x.state = .idle ∧ x.mode = .undetermined := by simpa [Instr.inContext] using hctx
    obtain rfl : b = Config.start := of_decide_eq_true hwf
    simp only [decodeRxByte, hs, hm, if_neg (Machine.Cfg_wf_codes x.cfg hc).1.symm, if_true]
  | rxDetectFail d =>
    cases hb
    obtain ⟨hs, hm⟩ : x.state = .idle ∧ x.mode = .undetermined := by simpa [Instr.inContext] using hctx
    obtain ⟨h1, h2⟩ : b ≠ x.cfg.signOn ∧ b ≠ Config.start := by simpa [Instr.wf] using hwf
    simp only [decodeRxByte, hs, hm, if_neg h1, if_neg h2]
  | rxAStart d =>
    cases hb
    obtain ⟨hs, hm⟩ : x.state = .idle ∧ x.mode = .protocolA := by simpa [Instr.inContext] using hctx
    simp only [decodeRxByte, hs, hm, if_pos (of_decide_eq_true hwf)]
  | rxABadStart d =>
    cases hb
    obtain ⟨hs, hm⟩ : x.state = .idle ∧ x.mode = .protocolA := by simpa [Instr.inContext] using hctx
    simp only [decodeRxByte, hs, hm, if_neg (of_decide_eq_true hwf)]
  | rxAToken d =>
    cases hb
    obtain ⟨hs, h4⟩ : x.state = .readingHeader ∧ x.bytesRead = 4 := by simpa [Instr.inContext] using hctx
    simp only [decodeRxByte, hs, if_pos h4]
  | rxBExt d =>
    cases hb
    obtain ⟨hs, hm⟩ : x.state = .idle ∧ x.mode = .protocolB := by simpa [Instr.inContext] using hctx
    simp only [decodeRxByte, hs, hm, decodeIdleB_of_extended hwf]
  | rxBTable d =>
    cases hb
    obtain ⟨hs, hm⟩ : x.state = .idle ∧ x.mode = .protocolB := by simpa [Instr.inContext] using hctx
    obtain ⟨hext, hres⟩ : isExtended x.cfg b = false ∧ isResolved x.cfg b = true := by simpa [Instr.wf] using hwf
    simp only [decodeRxByte, hs, hm, decodeIdleB_of_not_extended hext, hres, if_true]
  | rxBUnresolved d =>
    cases hb
    obtain ⟨hs, hm⟩ : x.state = .idle ∧ x.mode = .protocolB := by simpa [Instr.inContext] using hctx
    obtain ⟨hext, hres⟩ : isExtended x.cfg b = false ∧ isResolved x.cfg b = false := by simpa [Instr.wf] using hwf
    simp only [decodeRxByte, hs, hm, decodeIdleB_of_not_extended hext, hres]; rfl
  | poll | ensure | send | bufRd | bufWr | getSize | reservedOp67 | reservedOp815 | reservedBits | reset | rxALength
  | wireAFrame | wireBFrame => cases hb

/-- Outside Idle and away from header index 4 no byte is special. -/
theorem decodeRxByte_elsewhere {x : RxContext} {b : Byte} (hs : x.state ≠ .idle)
    (htoken : ¬ (x.state = .readingHeader ∧ x.bytesRead = 4)) : decodeRxByte x b = .poll true b := by
  unfold decodeRxByte
  split
  · exact absurd ‹_› hs
  · exact if_neg fun h4 => htoken ⟨‹_›, h4⟩
  · rfl
  · rfl

/-- In Idle every byte is read as a row. -/
theorem rowOf_decodeRxByte_of_idle {x : RxContext} (hs : x.state = .idle) (b : Byte) : RowOf x b (decodeRxByte x b) := by
  simp only [decodeRxByte, hs]
  cases hm : x.mode with
  | undetermined =>
    dsimp only
    split
    · exact ⟨decide_eq_true ‹_›, by simp [Instr.inContext, hs, hm], rfl⟩
    · split
      · exact ⟨decide_eq_true ‹_›, by simp [Instr.inContext, hs, hm], rfl⟩
      · exact ⟨by simp [Instr.wf, *], by simp [Instr.inContext, hs, hm], rfl⟩
  | protocolA =>
    dsimp only
    split
    · exact ⟨decide_eq_true ‹_›, by simp [Instr.inContext, hs, hm], rfl⟩
    · exact ⟨decide_eq_true ‹_›, by simp [Instr.inContext, hs, hm], rfl⟩
  | protocolB =>
    dsimp only
    cases hext : isExtended x.cfg b with
    | true =>
      rw [decodeIdleB_of_extended hext]
      exact ⟨hext, by simp [Instr.inContext, hs, hm], rfl⟩
    | false =>
      rw [decodeIdleB_of_not_extended hext]
      split
      · exact ⟨by simp [Instr.wf, *], by simp [Instr.inContext, hs, hm], rfl⟩
      · exact ⟨by simp [Instr.wf, *], by simp [Instr.inContext, hs, hm], rfl⟩

/-- Settles O4: in Idle and at header index 4 a byte is a row, and anywhere else a plain POLL. -/
theorem receivedByteMapIsTotal : Obligations.ReceivedByteMapIsTotal := by
  intro x b _
  by_cases hs : x.state = .idle
  · obtain ⟨hwf, hctx, hb⟩ := rowOf_decodeRxByte_of_idle hs b
    exact ⟨hwf, hctx, .inl hb⟩
  by_cases htoken : x.state = .readingHeader ∧ x.bytesRead = 4
  · have hd : decodeRxByte x b = .rxAToken b := by simp only [decodeRxByte, htoken.1, if_pos htoken.2]
    rw [hd]
    exact ⟨rfl, by simp [Instr.inContext, htoken], .inl rfl⟩
  · have hd : decodeRxByte x b = .poll true b := decodeRxByte_elsewhere hs htoken
    rw [hd]
    exact ⟨rfl, rfl, .inr ⟨rfl, hs, htoken⟩⟩

/-! ### Wire frames (30_encoding.md R78, R79) -/

theorem be16_hi8_lo8 (v : Half) : be16 (hi8 v) (lo8 v) = v :=
  (BitVec.extractLsb'_append_extractLsb'_eq_extractLsb' rfl).trans BitVec.extractLsb'_eq_self

/-- The frame of a body that a 16-bit length can count is read back. -/
theorem decodeFrameA_frameA {q : Byte} {body : List Byte} {ck : Byte} (h : body.length < 2 ^ 16) :
    decodeFrameA (frameA q body ck) = .ok (.wireAFrame q body ck) := by
  have hlen : (BitVec.ofNat 16 body.length).toNat = body.length := by
    rw [BitVec.toNat_ofNat, Nat.mod_eq_of_lt h]
  simp [decodeFrameA, frameA, headerA, be16_hi8_lo8, hlen]

theorem decodeFrameB_cons {c : Cfg} {code : Byte} {params : List Byte} (h : (Instr.wireBFrame code params).wf c = true) :
    decodeFrameB c (code :: params) = .ok (.wireBFrame code params) := by
  obtain ⟨l, hl, hlen⟩ := Option.map_eq_some_iff.1 (of_decide_eq_true h)
  simp [decodeFrameB, hl, hlen]

/-- A well-formed ProtocolA frame is read back in Idle outside ProtocolB: in Undetermined mode its first byte is not
SIGN_ON. -/
theorem decodeWire_frameA {x : RxContext} {q : Byte} {body : List Byte} {ck : Byte} (hc : x.cfg.wf = true)
    (hs : x.state = .idle) (hm : x.mode ≠ .protocolB) (h : body.length < 2 ^ 16) :
    decodeWire x (frameA q body ck) = .ok (.wireAFrame q body ck) := by
  have hne : Config.start ≠ x.cfg.signOn := (Machine.Cfg_wf_codes x.cfg hc).1.symm
  refine Eq.trans ?_ (decodeFrameA_frameA h)
  cases hmode : x.mode with
  | undetermined => simp [decodeWire, frameA, headerA, hs, hmode, hne]
  | protocolA => simp [decodeWire, frameA, headerA, hs, hmode]
  | protocolB => exact absurd hmode hm

/-- A ProtocolB frame of the length its code gives is read back in Idle and ProtocolB, or in Undetermined mode when its code
is SIGN_ON. -/
theorem decodeWire_frameB {x : RxContext} {code : Byte} {params : List Byte} (hs : x.state = .idle)
    (hm : x.mode = .protocolB ∨ x.mode = .undetermined ∧ code = x.cfg.signOn)
    (h : (Instr.wireBFrame code params).wf x.cfg = true) :
    decodeWire x (code :: params) = .ok (.wireBFrame code params) := by
  refine Eq.trans ?_ (decodeFrameB_cons h)
  obtain hmode | ⟨hmode, hcode⟩ := hm
  · simp [decodeWire, hs, hmode]
  · simp [decodeWire, hs, hmode, hcode]

/-- The body of a frame that a burst reads as has the length that the header's 16 bits give. -/
theorem wf_of_decodeFrameA {c : Cfg} {bs : List Byte} {i : Instr} (h : decodeFrameA bs = .ok i) : i.wf c = true := by
  unfold decodeFrameA at h
  split at h
  · rename_i st q hb lb tk rest
    split at h
    · cases h
    split at h
    · cases h
    split at h <;> cases h
    have hlen : rest.length = (be16 hb lb).toNat + 1 := not_not.1 ‹_›
    have hlt := (be16 hb lb).isLt
    exact decide_eq_true (by rw [List.length_dropLast]; omega)
  · cases h

theorem wf_of_decodeFrameB {c : Cfg} {bs : List Byte} {i : Instr} (h : decodeFrameB c bs = .ok i) : i.wf c = true := by
  unfold decodeFrameB at h
  split at h
  · split at h
    · cases h
    · split at h <;> cases h
      simp [Instr.wf, *]
  · cases h

/-- A burst is read as a frame of one protocol or the other. -/
theorem decodeFrame_of_decodeWire {x : RxContext} {bs : List Byte} {i : Instr} (h : decodeWire x bs = .ok i) :
    decodeFrameA bs = .ok i ∨ decodeFrameB x.cfg bs = .ok i := by
  unfold decodeWire at h
  split at h
  · cases h
  · split at h
    · cases h
    · split at h
      · exact .inl h
      · exact .inr h
      · split at h
        · exact .inr h
        · split at h
          · exact .inl h
          · cases h

/-- Settles O5: a burst is read as a frame of one of the two layouts. -/
theorem encodeOfDecodedFrame : Obligations.EncodeOfDecodedFrame := by
  intro x bs i h
  refine ⟨?_, Machine.encode_of_decodeWire h⟩
  obtain hA | hB := decodeFrame_of_decodeWire h
  · exact wf_of_decodeFrameA hA
  · exact wf_of_decodeFrameB hB

/-! ### Every instruction -/

/-- The decoder reads the word of a well-formed request as that request. -/
theorem decodeWord_request {c : Cfg} {i : Instr} {w : Word} (hwf : i.wf c = true) (hw : encode i = .request w) :
    decodeWord w = i := by
  cases i with
  | poll v d => cases hw; exact decodeWord_pollRequest v d
  | ensure req => cases hw; exact decodeWord_ensureRequest req
  | send st n => cases hw; exact decodeWord_sendRequest st n
  | bufRd addr => cases hw; exact decodeWord_bufRdRequest addr
  | bufWr data addr => cases hw; exact decodeWord_bufWrRequest data addr
  | getSize => cases hw; rfl
  | reservedOp67 low => cases hw; exact decodeWord_reservedOp67Request low
  | reservedOp815 low => cases hw; exact decodeWord_reservedOp815Request low
  | reservedBits v => cases hw; exact decodeWord_of_reservedBits (of_decide_eq_true hwf)
  | reset | rxDetectSignOn | rxDetectStart | rxDetectFail | rxAStart | rxABadStart | rxAToken | rxALength | rxBExt
  | rxBTable | rxBUnresolved | wireAFrame | wireBFrame => cases hw

/-- Settles O2, by the input that the encoder writes: a request word, a pulse, a received byte, length bytes or a frame. -/
theorem decodeOfEncode : Obligations.DecodeOfEncode := by
  intro x i hc hwf hctx
  cases hin : encode i with
  | request w => exact congrArg Except.ok (decodeWord_request hwf hin)
  | rxByte b => exact congrArg Except.ok (RowOf.decodeRxByte_eq hc ⟨hwf, hctx, hin⟩)
  | reset => cases i <;> cases hin; rfl
  | rxLength w => cases i <;> cases hin; rfl
  | wire bs =>
    cases i with
    | wireAFrame q body ck =>
      cases hin
      obtain ⟨hs, hm⟩ : x.state = .idle ∧ x.mode ≠ .protocolB := by simpa [Instr.inContext] using hctx
      exact decodeWire_frameA hc hs hm (of_decide_eq_true hwf)
    | wireBFrame code params =>
      cases hin
      obtain ⟨hs, hm⟩ : x.state = .idle ∧ (x.mode = .protocolB ∨ x.mode = .undetermined ∧ code = x.cfg.signOn) := by
        simpa [Instr.inContext] using hctx
      exact decodeWire_frameB hs hm hwf
    | poll | ensure | send | bufRd | bufWr | getSize | reservedOp67 | reservedOp815 | reservedBits | reset
    | rxDetectSignOn | rxDetectStart | rxDetectFail | rxAStart | rxABadStart | rxAToken | rxALength | rxBExt | rxBTable
    | rxBUnresolved => cases hin

/-! ### The checksum of a ProtocolA frame (30_encoding.md R78) -/

/-- The bytes of a ProtocolA frame XOR to what its checksum is wrong by. -/
theorem xorAll_frameA (q : Byte) (body : List Byte) (ck : Byte) :
    xorAll (frameA q body ck) = checksumA q body ^^^ ck :=
  Machine.xorAll_concat _ _

theorem xorAll_frameA_checksumA (q : Byte) (body : List Byte) : xorAll (frameA q body (checksumA q body)) = 0 := by
  rw [xorAll_frameA, BitVec.xor_self]; rfl

end Sys2Proof

/-! ## What a row, a frame and a burst present to the parser (30_encoding.md R77 to R85) -/

namespace Sys2Proof.Machine

/-! ### Result words (30_encoding.md R75, R76) -/

theorem consumedBit_pollWord (consume : Bool) (k : PollKind) : consumedBit (pollWord consume k) = consume := by
  simp only [consumedBit, pollWord, BitVec.getLsbD_append]
  cases consume <;> rfl

/-- Settles O6: each field of a word is a quotient and a remainder of its value. -/
theorem resultWordLayout : Obligations.ResultWordLayout := by
  refine ⟨fun consume k => ?_, rfl, rfl, byteWord_toNat, sizeWord_toNat⟩
  have hw := pollWord_toNat consume k
  have hkind := (pollKindCode k).isLt
  have hcode := (pollCodeField k).isLt
  have hconsume := consume.toNat_le
  refine ⟨consumedBit_pollWord consume k, ?_, ?_, field_eq_of_toNat (by simp; omega)⟩
  · have hfield : (pollWord consume k).extractLsb' 8 2 = pollKindCode k := field_eq_of_toNat (by omega)
    rw [hfield]
    cases k <;> rfl
  · have hfield : (pollWord consume k).extractLsb' 0 8 = pollCodeField k := field_eq_of_toNat (by omega)
    rw [hfield]
    cases k <;> rfl

/-! ### The rows as POLLs, and the transport adapter -/

/-- Settles O41: each row presents its byte, and RX_A_LENGTH the token. -/
theorem rowsArePolls : Obligations.RowsArePolls := by
  intro s b h
  have row {i : Instr} (hp : presented i = some b) : exec i s = exec (.poll true b) s := h.exec_presented_eq_poll hp
  exact ⟨row rfl, row rfl, row rfl, row rfl, row rfl, row rfl, row rfl, row rfl, row rfl, h.exec_rxALength_eq_poll⟩

/-- Settles O42: the result word of a POLL says whether it consumed the byte that the adapter presents. -/
theorem adapterLosesNoByte : Obligations.AdapterLosesNoByte := by
  intro s t stream h
  cases stream with
  | nil =>
    rw [presentHead, decodeWord_pollRequest] at h
    obtain ⟨-, rfl⟩ | ⟨-, hv, -⟩ := pollBody_next (operation_next h).2
    · simp [advance]
    · cases hv
  | cons b stream =>
    rw [presentHead, decodeWord_pollRequest] at h
    obtain ⟨-, rfl⟩ | ⟨-, -, -, rfl⟩ := pollBody_next (operation_next h).2
    · simp [advance, consumedBit_pollWord]
    · obtain ⟨hrx, k, -, hresult, -⟩ := afterIntake_answersByte b (takeByte b (startOp s))
      simp [advance, hrx, hresult, consumedBit_pollWord]

/-! ### Frames that the block sends, and that FRAMEA presents -/

/-- Settles O59: the word of each POLL decodes to that POLL. -/
theorem frameaExpandsToAGoodFrame : Obligations.FrameaExpandsToAGoodFrame := by
  refine fun q ds => ⟨xorAll_frameA_checksumA q ds, ?_⟩
  rw [assemble, List.map_map]
  exact List.map_congr_left fun b _ => congrArg Except.ok (decodeWord_pollRequest true b)

/-- A ProtocolA response is the frame of the buffer's first bytes (42_response_encoder.md R152 to R154). -/
theorem responseBytes_protocolA {s : State} (hm : s.mode = .protocolA) (size : Half) :
    responseBytes size s =
      frameA s.seq (bufBytes s size.toNat) (checksumA s.seq (bufBytes s size.toNat)) := by
  simp only [responseBytes, hm, frameA, checksumA, bufBytes_length, BitVec.ofNat_toNat, BitVec.setWidth_eq]

theorem exec_send_txLast {s t : State} {status : Byte} {size : Half} (hsize : size.toNat ≤ s.cfg.cap)
    (h : exec (.send status size) s = .next t) : t.txLast = responseBytes size (setBufByte 1 status (startOp s)) := by
  have hb := (operation_next ((exec_send s status size).symm.trans h)).2
  split at hb
  · exact absurd hsize (Nat.not_le.2 ‹_›)
  · cases hb; rfl

theorem length_frameA (q : Byte) (body : List Byte) (ck : Byte) : (frameA q body ck).length = body.length + 6 := by
  simp [frameA, headerA]

/-- Settles O49: what SEND transmits is `frameA` of what the buffer holds, which the decoder reads back. -/
theorem responseIsAWellChecksummedFrame : Obligations.ResponseIsAWellChecksummedFrame := by
  intro s t status size hm hsize h
  have hlen := bufBytes_length (setBufByte 1 status (startOp s)) size.toNat
  rw [exec_send_txLast hsize h, responseBytes_protocolA (s := setBufByte 1 status (startOp s)) hm]
  refine ⟨xorAll_frameA_checksumA _ _, by rw [length_frameA, hlen], _, hlen, decodeFrameA_frameA ?_⟩
  rw [hlen]
  exact size.isLt

/-! ### Bursts -/

/-- With the invariant and the parser outside Complete, a POLL takes its byte and goes on. -/
theorem Inv.pollBody_takes {s : State} (h : Inv s) (hs : s.state ≠ .complete) (b : Byte) :
    pollBody true b (Machine.startOp s) = .next (afterIntake b (takeByte b (Machine.startOp s))) :=
  pollBody_of_room hs (h.room hs)

theorem Inv.exec_poll_takes {s : State} (h : Inv s) (hf : s.fault = none) (hs : s.state ≠ .complete) (b : Byte) :
    exec (.poll true b) s = .next (afterIntake b (takeByte b (Machine.startOp s))) :=
  (operation_of_ready ⟨h.cfgOk, hf⟩).trans (h.pollBody_takes hs b)

theorem portAfter_wire_one (b : Byte) (bs : List Byte) (port : List Input) :
    portAfter (.wire (b :: bs)) 1 port = if bs = [] then port else .wire bs :: port := by
  cases bs with
  | nil => rfl
  | cons c bs => simp [portAfter, leftOf]

/-- Settling a burst of which one byte was consumed leaves the other bytes in the port. -/
theorem settle_wire_one {b : Byte} {bs : List Byte} {s t : State} (hrx : t.rxStream = s.rxStream ++ [b]) :
    settle (.wire (b :: bs)) s (.next t) = .next (withPort (if bs = [] then t.port else .wire bs :: t.port) t) := by
  have hcount : t.rxStream.length - s.rxStream.length = 1 := by simp [hrx]
  rw [settle, hcount, portAfter_wire_one]

/-- Settles O12: the row of the first byte is the POLL of it, and takes exactly that byte off the burst. -/
theorem burstIsTakenByteByByte : Obligations.BurstIsTakenByteByByte := by
  intro s b bs rest e hp hd
  have hstep : step s = settle (.wire (b :: bs)) s (exec (decodeRxByte (context s) b) (withPort rest s)) := by
    rw [step_of_port_cons hp, operationOf_error hd]; rfl
  refine ⟨hstep, fun h hf hs => ?_⟩
  have hinv := h.inv_withPort rest
  have hexec := (hinv.exec_presented_eq_poll (decodeRxByte_presents (context s) b)).trans
    (hinv.exec_poll_takes hf hs b)
  have hrx := (afterIntake_answersByte b (takeByte b (startOp (withPort rest s)))).rxStream
  have hport := (afterIntake_takesByte b (takeByte b (startOp (withPort rest s)))).port
  refine ⟨_, hexec, ?_⟩
  rw [hstep, hexec, settle_wire_one (s := s) (b := b) hrx, hport]
  rfl

/-! ### A POLL keeps the fault register -/

theorem bodyComplete_fault (s : State) : (bodyComplete s).fault = s.fault := by
  unfold bodyComplete
  split <;> rfl

theorem lengthStep_fault (s : State) : (lengthStep s).fault = s.fault := by
  unfold lengthStep
  split <;> rfl

theorem headerStep_fault (s : State) : (headerStep s).fault = s.fault := by
  unfold headerStep
  split
  · rfl
  · exact lengthStep_fault s

theorem firstByteA_fault (b : Byte) (s : State) : (firstByteA b s).fault = s.fault := by
  unfold firstByteA
  split <;> rfl

theorem enterBodyB_fault (l : Half) (s : State) : (enterBodyB l s).fault = s.fault := by
  rw [enterBodyB_eq]
  split
  · rfl
  · exact bodyComplete_fault _

theorem firstByteB_fault (b : Byte) (s : State) : (firstByteB b s).fault = s.fault := by
  unfold firstByteB
  split
  · rfl
  · split
    · rfl
    · exact enterBodyB_fault _ s

theorem idleStep_fault (b : Byte) (s : State) : (idleStep b s).fault = s.fault := by
  unfold idleStep
  split
  · split
    · exact firstByteB_fault b _
    · split
      · exact firstByteA_fault b _
      · rfl
  · exact firstByteA_fault b s
  · exact firstByteB_fault b s

theorem afterIntake_fault (b : Byte) (s : State) : (afterIntake b s).fault = s.fault := by
  unfold afterIntake
  split
  · rfl
  · split
    · exact idleStep_fault b s
    · exact headerStep_fault s
    · exact bodyComplete_fault s
    · rfl

/-- A POLL records no fault (60_exceptions.md R205): the block stays ready. -/
theorem Ready.of_pollBody {v : Bool} {b : Byte} {s t : State} (hr : Ready s) (h : pollBody v b (startOp s) = .next t) :
    Ready t := by
  refine ⟨(pollBody_takesByte h).cfg ▸ hr.1, ?_⟩
  obtain ⟨-, rfl⟩ | ⟨-, -, -, rfl⟩ := pollBody_next h
  · exact hr.2
  · exact (afterIntake_fault b _).trans hr.2

/-! ### A frame is the POLLs of its bytes (30_encoding.md R85; log 10) -/

/-- In a ready state, the POLLs as parts of one operation and as operations of their own have the same outcome. -/
theorem feed_eq_pollAll {s : State} (hr : Ready s) (bs : List Byte) : feed bs s = pollAll bs s := by
  induction bs generalizing s with
  | nil => rfl
  | cons b bs ih =>
    rw [feed, pollAll, exec_poll, operation_of_ready hr]
    cases hb : pollBody true b (startOp s) with
    | next t => exact ih (hr.of_pollBody hb)
    | fault r => rfl
    | refused r => rfl

/-- A POLL begins like any operation, whatever the operation before it left. -/
theorem feed_startOp (b : Byte) (bs : List Byte) (s : State) : feed (b :: bs) (startOp s) = feed (b :: bs) s := rfl

/-- A state that is not ready stops the first POLL as it stops a frame. -/
theorem operation_feed_cons (b : Byte) (bs : List Byte) (s : State) :
    operation s (feed (b :: bs)) = pollAll (b :: bs) s := by
  by_cases hc : s.cfg.wf = true
  · cases hf : s.fault with
    | none =>
      have hr : Ready s := ⟨hc, hf⟩
      rw [operation_of_ready hr, feed_startOp, feed_eq_pollAll hr]
    | some f => rw [pollAll, exec_poll, operation, operation, ifReady_faulted hc hf, ifReady_faulted hc hf]
  · have hc := Bool.eq_false_of_not_eq_true hc
    rw [pollAll, exec_poll, operation, operation, ifReady_illFormed hc, ifReady_illFormed hc]

/-- Settles O54: a frame has a first byte. -/
theorem framesArePolls : Obligations.FramesArePolls :=
  fun s _ _ _ _ _ => ⟨operation_feed_cons _ _ s, operation_feed_cons _ _ s⟩

/-! ### Bytes taken one after the other (40_frame_state_machine.md R102) -/

/-- The state after the intake of a sequence of bytes. -/
def takeBytes (bs : List Byte) (s : State) : State := bs.foldl (fun s b => takeByte b s) s

theorem takeBytes_cons (b : Byte) (bs : List Byte) (s : State) : takeBytes (b :: bs) s = takeBytes bs (takeByte b s) := rfl

theorem takeBytes_concat (bs : List Byte) (b : Byte) (s : State) :
    takeBytes (bs ++ [b]) s = takeByte b (takeBytes bs s) := List.foldl_concat _ _ _ _

/-- Everything the intake of a sequence of bytes does; what the frame buffer reads is in `bufByte_takeBytes`. -/
theorem takeBytes_eq (bs : List Byte) (s : State) :
    takeBytes bs s = { s with
      cksum := bs.foldl (· ^^^ ·) s.cksum
      buf := (takeBytes bs s).buf
      bytesRead := s.bytesRead + BitVec.ofNat 16 bs.length
      rxStream := s.rxStream ++ bs
      rxFrame := s.rxFrame ++ bs } := by
  induction bs generalizing s with
  | nil => simp [takeBytes]
  | cons b bs ih =>
    have hcount : s.bytesRead + 1#16 + BitVec.ofNat 16 bs.length = s.bytesRead + BitVec.ofNat 16 (bs.length + 1) := by
      rw [BitVec.ofNat_add]
      ac_rfl
    rw [takeBytes_cons, ih]
    simp [hcount]

@[simp] theorem takeBytes_cfg (bs : List Byte) (s : State) : (takeBytes bs s).cfg = s.cfg := by rw [takeBytes_eq]

@[simp] theorem takeBytes_mode (bs : List Byte) (s : State) : (takeBytes bs s).mode = s.mode := by rw [takeBytes_eq]

@[simp] theorem takeBytes_state (bs : List Byte) (s : State) : (takeBytes bs s).state = s.state := by rw [takeBytes_eq]

@[simp] theorem takeBytes_bytesRead (bs : List Byte) (s : State) :
    (takeBytes bs s).bytesRead = s.bytesRead + BitVec.ofNat 16 bs.length := by rw [takeBytes_eq]

@[simp] theorem takeBytes_cksum (bs : List Byte) (s : State) :
    (takeBytes bs s).cksum = bs.foldl (· ^^^ ·) s.cksum := by rw [takeBytes_eq]

theorem wf_buf_takeBytes {s : State} (h : Memory.wf s.draws s.buf = true) (bs : List Byte) :
    Memory.wf (takeBytes bs s).draws (takeBytes bs s).buf = true := by
  induction bs generalizing s with
  | nil => exact h
  | cons b bs ih => exact ih (Memory.wf_write _ _ _ _ h)

/-- Bytes taken from index 0 on are the first bytes of the frame buffer. -/
theorem bufByte_takeBytes {s : State} (hm : Memory.wf s.draws s.buf = true) (hr : s.bytesRead = 0) {bs : List Byte}
    (hlen : bs.length ≤ 2 ^ 16) (j : Nat) :
    bufByte (takeBytes bs s) j = if h : j < bs.length then bs[j] else bufByte s j := by
  induction bs using List.reverseRecOn with
  | nil => simp [takeBytes]
  | append_singleton bs b ih =>
    rw [List.length_append, List.length_singleton] at hlen
    have hat : (takeBytes bs s).bytesRead.toNat = bs.length := by
      rw [takeBytes_eq]
      simp only [hr, BitVec.zero_add, BitVec.ofNat_eq_ofNat, BitVec.toNat_ofNat]
      omega
    rw [takeBytes_concat, bufByte_takeByte _ _ _ (wf_buf_takeBytes hm bs), hat, ih (by omega)]
    by_cases hj : j < bs.length
    · simp [hj, Nat.ne_of_lt hj, Nat.lt_succ_of_lt hj]
    · by_cases he : j = bs.length
      · simp [he]
      · have hj' : ¬ j < bs.length + 1 := by omega
        simp [hj, he, hj']

/-- Bytes below the target keep the invariant, in either reading state. -/
theorem Inv.inv_takeBytes {s : State} (h : Inv s) (hs : s.state ≠ .complete) {bs : List Byte}
    (hlt : s.bytesRead.toNat + bs.length < s.bytesWanted.toNat) : Inv (takeBytes bs s) := by
  induction bs generalizing s with
  | nil => exact h
  | cons b bs ih =>
    rw [List.length_cons] at hlt
    have hnext : (s.bytesRead + 1).toNat = s.bytesRead.toNat + 1 := by bv_omega
    refine ih (h.inv_takeByte hs (by bv_omega) b) hs ?_
    rw [takeByte_bytesRead, takeByte_bytesWanted, hnext]
    omega

/-! ### The POLLs of several bytes -/

theorem feed_cons {b : Byte} {s t : State} (h : pollBody true b (startOp s) = .next t) (bs : List Byte) :
    feed (b :: bs) s = feed bs t := by
  simp only [feed, h]

theorem feed_append {as : List Byte} {s t : State} (h : feed as s = .next t) (bs : List Byte) :
    feed (as ++ bs) s = feed bs t := by
  induction as generalizing s with
  | nil => cases h; rfl
  | cons a as ih =>
    obtain ⟨u, ha, has⟩ := feed_cons_next h
    rw [List.cons_append, feed_cons ha, ih has]

/-- POLLs below the target take their bytes; what they answer the next POLL forgets. -/
theorem Inv.feed_below {s : State} (h : Inv s) (hs : s.state ≠ .complete) {bs : List Byte}
    (hlt : s.bytesRead.toNat + bs.length < s.bytesWanted.toNat) (b : Byte) :
    feed (bs ++ [b]) s = .next (afterIntake b (takeBytes (bs ++ [b]) (Machine.startOp s))) := by
  induction bs generalizing s with
  | nil => exact feed_cons (h.pollBody_takes hs b) []
  | cons c bs ih =>
    rw [List.length_cons] at hlt
    have hnext : (s.bytesRead + 1).toNat = s.bytesRead.toNat + 1 := by bv_omega
    have htake : pollBody true c (Machine.startOp s) = .next (incomplete (takeByte c (Machine.startOp s))) := by
      rw [h.pollBody_takes hs, afterIntake_below]
      simp only [takeByte_bytesRead, takeByte_bytesWanted, startOp_bytesRead, startOp_bytesWanted]
      bv_omega
    have hinv : Inv (incomplete (takeByte c (Machine.startOp s))) :=
      (h.startOp.inv_takeByte hs (by simp only [startOp_bytesRead, startOp_bytesWanted]; bv_omega) c).inv_answer _
    rw [List.cons_append, feed_cons htake, ih hinv hs]
    · rfl
    · show (s.bytesRead + 1).toNat + bs.length < s.bytesWanted.toNat
      omega

/-- In ReadingBody the bytes up to the target complete the body (R104). -/
theorem Inv.feed_body {s : State} (h : Inv s) (hs : s.state = .readingBody) {bs : List Byte} (hne : bs ≠ [])
    (hlen : s.bytesRead.toNat + bs.length = s.bytesWanted.toNat) :
    feed bs s = .next (bodyComplete (takeBytes bs (Machine.startOp s))) := by
  obtain ⟨as, b, rfl⟩ := List.eq_nil_or_concat bs |>.resolve_left hne
  simp only [List.concat_eq_append, List.length_append, List.length_singleton] at hlen ⊢
  rw [h.feed_below (by simp [hs]) (by omega), afterIntake_body]
  · rw [takeBytes_eq]; exact hs
  · rw [takeBytes_eq]
    simp only [startOp_bytesRead, startOp_bytesWanted, List.length_append, List.length_singleton]
    bv_omega

/-! ### A frame is parsed with success -/

theorem exec_wireAFrame_of_ready {s : State} (hr : Ready s) (q : Byte) (body : List Byte) (ck : Byte) :
    exec (.wireAFrame q body ck) s = feed (frameA q body ck) s :=
  (operation_of_ready hr).trans (feed_startOp _ _ s)

theorem exec_wireBFrame_of_ready {s : State} (hr : Ready s) (code : Byte) (params : List Byte) :
    exec (.wireBFrame code params) s = feed (code :: params) s :=
  (operation_of_ready hr).trans (feed_startOp code params s)

/-- Completion after all bytes of a body (R121): the body's first byte is the command, and its size leaves out one byte. -/
theorem completeFrame_takeBytes {s : State} (hm : Memory.wf s.draws s.buf = true) (hr : s.bytesRead = 0) {b : Byte}
    {bs : List Byte} (hlen : (b :: bs).length ≤ 2 ^ 16) :
    completeFrame (takeBytes (b :: bs) s) = { s with
      state := .complete
      bytesRead := BitVec.ofNat 16 (bs.length + 1)
      cksum := (b :: bs).foldl (· ^^^ ·) s.cksum
      bodySize := BitVec.ofNat 16 bs.length
      buf := (completeFrame (takeBytes (b :: bs) s)).buf
      rxStream := s.rxStream ++ (b :: bs)
      rxFrame := s.rxFrame ++ (b :: bs)
      result := some (pollWord true (.command b)) } := by
  have hcode : commandCode (takeBytes (b :: bs) s) = b := by
    rw [commandCode, bufByte_takeBytes hm hr hlen]; rfl
  have hsize : BitVec.ofNat 16 (bs.length + 1) - 1 = BitVec.ofNat 16 bs.length := by
    rw [BitVec.ofNat_add]
    exact add_sub_cancel_right _ _
  have hread : s.bytesRead + BitVec.ofNat 16 (bs.length + 1) = BitVec.ofNat 16 (bs.length + 1) := by
    rw [hr]
    exact BitVec.zero_add _
  rw [completeFrame, hcode]
  conv_lhs => rw [takeBytes_eq]
  simp only [List.length_cons, hread, hsize]
  rfl

theorem bodyComplete_of_good {s : State} (h : s.mode = .protocolA → s.cksum = 0) : bodyComplete s = completeFrame s :=
  if_neg fun hbad => hbad.2 (h hbad.1)

/-- What the first byte of a frame sets: the mode that it selects, and what the parser waits for (R106, R108, R110). -/
def enter (m : Mode) (st : ParserState) (n : Half) (s : State) : State := await st n { s with mode := m }

/-- The intake does not depend on what the first byte has set. -/
theorem takeBytes_enter (m : Mode) (st : ParserState) (n : Half) (bs : List Byte) (s : State) :
    takeBytes bs (enter m st n s) = enter m st n (takeBytes bs s) := by
  induction bs generalizing s with
  | nil => rfl
  | cons b bs ih => exact ih (takeByte b s)

/-- The next POLL begins with what the first byte has set. -/
theorem startOp_incomplete_enter (m : Mode) (st : ParserState) (n : Half) (b : Byte) (s : State) :
    startOp (incomplete (enter m st n (takeByte b (startOp s)))) = enter m st n (takeByte b (startOp s)) := rfl

/-! #### ProtocolA (30_encoding.md R78) -/

theorem headerA_eq (q : Byte) (len : Half) :
    headerA q len = Config.start :: ([q, hi8 len, lo8 len] ++ [Config.token]) := rfl

/-- The START byte in Idle outside ProtocolB begins a header (R106, R108). -/
theorem Inv.pollBody_start {s : State} (h : Inv s) (hs : s.state = .idle) (hm : s.mode ≠ .protocolB) :
    pollBody true Config.start (Machine.startOp s) =
      .next (incomplete (enter .protocolA .readingHeader 5 (takeByte Config.start (Machine.startOp s)))) := by
  rw [h.pollBody_takes (by simp [hs]), h.startOp.afterIntake_idle hs, enter, ← firstByteA_start]
  cases hmode : s.mode with
  | undetermined =>
    rw [idleStep_start (s := takeByte Config.start (Machine.startOp s)) hmode (Cfg_wf_codes s.cfg h.cfgOk).1.symm rfl]
  | protocolA =>
    rw [idleStep_protocolA (s := takeByte Config.start (Machine.startOp s)) hmode, ← hmode]
    rfl
  | protocolB => exact absurd hmode hm

@[simp] theorem bufByte_startOp (s : State) (j : Nat) : bufByte (startOp s) j = bufByte s j := rfl

/-- The header of a ProtocolA frame, taken from Idle, before the verdict on its length. -/
def headerTaken (q : Byte) (len : Half) (s : State) : State :=
  enter .protocolA .readingHeader 5 (takeBytes (headerA q len) (startOp s))

/-- The POLLs of a header's bytes end in the verdict on its length (R112, R113). -/
theorem Inv.feed_headerA {s : State} (h : Inv s) (hs : s.state = .idle) (hm : s.mode ≠ .protocolB) (q : Byte)
    (len : Half) : feed (headerA q len) s = .next (lengthStep (headerTaken q len s)) := by
  have hread : s.bytesRead = 0 := (h.v2 hs).1
  have hstart := h.pollBody_start hs hm
  have hinv := h.startOp.inv_pollBody hstart
  have hbelow := hinv.feed_below (bs := [q, hi8 len, lo8 len]) (by simp [incomplete, enter])
    (by simp [incomplete, enter, hread]) Config.token
  have hheader := hinv.startOp.inv_takeBytes (bs := [q, hi8 len, lo8 len]) (by simp [incomplete, enter])
    (by simp [incomplete, enter, hread])
  rw [headerA_eq, feed_cons hstart, hbelow, takeBytes_concat,
    hheader.afterIntake_token (by simp [incomplete, enter]) (by simp [incomplete, enter, hread]), if_pos rfl,
    startOp_incomplete_enter, ← takeBytes_concat, takeBytes_enter, ← takeBytes_cons, ← headerA_eq, headerTaken]

theorem Inv.bufByte_headerTaken {s : State} (h : Inv s) (hs : s.state = .idle) (q : Byte) (len : Half) (j : Nat) :
    bufByte (headerTaken q len s) j = if hj : j < (headerA q len).length then (headerA q len)[j] else bufByte s j :=
  bufByte_takeBytes (s := Machine.startOp s) h.bufForm (h.v2 hs).1 (by simp [headerA]) j

/-- The parser waiting for the body and checksum of a ProtocolA frame, whose header it has taken and accepted (R114). -/
def bodyAwaitedA (q : Byte) (len : Half) (s : State) : State :=
  incomplete { headerTaken q len s with seq := q, bytesRead := 0, bytesWanted := len + 1, state := .readingBody }

/-- A length of at most MAX_BODY is accepted (R113, R114). -/
theorem Inv.lengthStep_headerTaken {s : State} (h : Inv s) (hs : s.state = .idle) {q : Byte} {len : Half}
    (hlen : len ≤ s.cfg.maxBody) : lengthStep (headerTaken q len s) = bodyAwaitedA q len s := by
  have hlength : headerLength (headerTaken q len s) = len := by
    rw [headerLength, h.bufByte_headerTaken hs, h.bufByte_headerTaken hs]
    exact be16_hi8_lo8 len
  have hseq : headerSeq (headerTaken q len s) = q := by rw [headerSeq, h.bufByte_headerTaken hs]; rfl
  have haccept : ¬ (headerTaken q len s).cfg.maxBody < len := by simpa [headerTaken, enter] using hlen
  rw [bodyAwaitedA, lengthStep, acceptHeader, hlength, hseq, if_neg haccept]

/-- The POLLs of a header with an accepted length. -/
theorem Inv.feed_headerA_accepted {s : State} (h : Inv s) (hs : s.state = .idle) (hm : s.mode ≠ .protocolB) (q : Byte)
    {len : Half} (hlen : len ≤ s.cfg.maxBody) : feed (headerA q len) s = .next (bodyAwaitedA q len s) := by
  rw [h.feed_headerA hs hm, h.lengthStep_headerTaken hs hlen]

theorem Inv.bufByte_bodyAwaitedA {s : State} (h : Inv s) (hs : s.state = .idle) (q : Byte) (len : Half) (j : Nat) :
    bufByte (bodyAwaitedA q len s) j = if hj : j < (headerA q len).length then (headerA q len)[j] else bufByte s j := by
  rw [← h.bufByte_headerTaken hs]
  exact bufByte_congr (by simp only [bodyAwaitedA, incomplete, answer_buf]) (by simp [bodyAwaitedA, incomplete]) j

/-- A body that the configuration allows has a length that 16 bits count. -/
theorem ofNat_length_le_maxBody {c : Cfg} {body : List Byte} (hlen : body.length ≤ c.maxBody.toNat) :
    BitVec.ofNat 16 body.length ≤ c.maxBody := by
  rw [BitVec.le_def, BitVec.toNat_ofNat]
  exact (Nat.mod_le _ _).trans hlen

/-- The POLLs of the bytes of a ProtocolA frame of an accepted length end in the completion of its body (R117). -/
theorem Inv.feed_frameA {s : State} (h : Inv s) (hs : s.state = .idle) (hm : s.mode ≠ .protocolB) (q : Byte)
    {body : List Byte} (hlen : body.length ≤ s.cfg.maxBody.toNat) (ck : Byte) :
    feed (frameA q body ck) s = .next (bodyComplete
      (takeBytes (body ++ [ck]) (Machine.startOp (bodyAwaitedA q (BitVec.ofNat 16 body.length) s)))) := by
  have hcap : 5 + s.cfg.maxBody.toNat + 1 ≤ 0xFFFF := Cfg_cap_le s.cfg h.cfgOk
  have hheader := h.feed_headerA_accepted hs hm q (ofNat_length_le_maxBody hlen)
  have hmissing : (0 : Half).toNat + (body ++ [ck]).length = (BitVec.ofNat 16 body.length + 1).toNat := by
    rw [List.length_append, List.length_singleton]
    bv_omega
  rw [frameA, List.append_assoc, feed_append hheader, (h.inv_feed hheader).feed_body rfl (by simp) hmissing]

/-- Everything the header of an accepted ProtocolA frame does from Idle (R114). -/
theorem Inv.bodyAwaitedA_eq {s : State} (h : Inv s) (hs : s.state = .idle) (q : Byte) (len : Half) :
    bodyAwaitedA q len s = { s with
      mode := .protocolA
      state := .readingBody
      bytesRead := 0
      bytesWanted := len + 1
      cksum := xorAll (headerA q len)
      seq := q
      buf := (bodyAwaitedA q len s).buf
      rxStream := s.rxStream ++ headerA q len
      rxFrame := headerA q len
      txLast := []
      result := some (pollWord true .incomplete) } := by
  have htaken := takeBytes_eq (headerA q len) (Machine.startOp s)
  rw [startOp_cksum, (h.v2 hs).2.2, startOp_rxFrame, h.frameIdle hs] at htaken
  have hbuf : (bodyAwaitedA q len s).buf = (takeBytes (headerA q len) (Machine.startOp s)).buf := rfl
  rw [hbuf, bodyAwaitedA, headerTaken]
  generalize takeBytes (headerA q len) (Machine.startOp s) = u at *
  rw [htaken]
  rfl

/-- The frame that ends in its right checksum leaves the checksum register zero. -/
theorem foldl_xor_body_checksum (q : Byte) (body : List Byte) :
    (body ++ [checksumA q body]).foldl (· ^^^ ·) (xorAll (headerA q (BitVec.ofNat 16 body.length))) = 0 := by
  rw [xorAll, ← List.foldl_append, ← List.append_assoc]
  exact xorAll_frameA_checksumA q body

/-- Settles O55: the header is accepted, the body and its checksum are taken, and the checksum is right. -/
theorem goodFrameAIsParsed : Obligations.GoodFrameAIsParsed := by
  rintro s q body _ h hf hs hm hlen rfl
  have hcap : 5 + s.cfg.maxBody.toNat + 1 ≤ 0xFFFF := Cfg_cap_le s.cfg h.cfgOk
  have hfeed := h.feed_frameA hs hm q hlen (checksumA q body)
  have hw := h.bodyAwaitedA_eq hs q (BitVec.ofNat 16 body.length)
  have hbuf := h.bufByte_bodyAwaitedA hs q (BitVec.ofNat 16 body.length)
  have hinv := h.inv_feed (h.feed_headerA_accepted hs hm q (ofNat_length_le_maxBody hlen))
  generalize bodyAwaitedA q (BitVec.ofNat 16 body.length) s = w at *
  have hread : w.bytesRead = 0 := by rw [hw]
  have hcksum : (body ++ [checksumA q body]).foldl (· ^^^ ·) (startOp w).cksum = 0 := by
    rw [startOp_cksum, hw]
    exact foldl_xor_body_checksum q body
  have hbytes := bufByte_takeBytes (s := startOp w) hinv.bufForm hread (bs := body ++ [checksumA q body]) (by simp; omega)
  rw [bodyComplete_of_good fun _ => (takeBytes_cksum _ (startOp w)).trans hcksum] at hfeed
  refine ⟨_, (exec_wireAFrame_of_ready ⟨h.cfgOk, hf⟩ ..).trans hfeed, fun j => (hbytes j).trans ?_, ?_⟩
  · rw [bufByte_startOp, hbuf]
  obtain ⟨b, bs, hbs⟩ := List.exists_cons_of_ne_nil (l := body ++ [checksumA q body]) (by simp)
  have hcount : bs.length = body.length := by simpa using (congrArg List.length hbs).symm
  rw [hbs] at hcksum
  rw [frameA, List.append_assoc, hbs]
  refine (completeFrame_takeBytes (s := startOp w) hinv.bufForm hread (by simp; omega)).trans ?_
  rw [hcksum, hcount]
  generalize (completeFrame (takeBytes (b :: bs) (startOp w))).buf = buf
  rw [hw]
  simp [startOp, BitVec.ofNat_add]

/-! #### ProtocolB (30_encoding.md R79) -/

/-- The code of a frame in Idle and ProtocolB, or SIGN_ON in Undetermined mode, begins a body of the length it gives (R106,
R110). -/
theorem Inv.pollBody_code {s : State} {code : Byte} {l : Half} (h : Inv s) (hs : s.state = .idle)
    (hm : s.mode = .protocolB ∨ s.mode = .undetermined ∧ code = s.cfg.signOn)
    (hl : resolveLength s.cfg code = some l) (h0 : l ≠ 0) :
    pollBody true code (Machine.startOp s) =
      .next (enterBodyB l { takeByte code (Machine.startOp s) with mode := .protocolB }) := by
  rw [h.pollBody_takes (by simp [hs]), h.startOp.afterIntake_idle hs]
  obtain hmode | ⟨hmode, hcode⟩ := hm
  · rw [idleStep_protocolB (s := takeByte code (Machine.startOp s)) hmode,
      firstByteB_of_resolved (s := takeByte code (Machine.startOp s)) hl h0, ← hmode]
    rfl
  · rw [idleStep_signOn (s := takeByte code (Machine.startOp s)) hmode hcode]
    exact congrArg _ (firstByteB_of_resolved hl h0)

/-- The POLLs of the bytes of a ProtocolB frame of the length its code gives end in the completion of its body (R111). -/
theorem Inv.feed_frameB {s : State} {code : Byte} {params : List Byte} {l : Half} (h : Inv s) (hs : s.state = .idle)
    (hm : s.mode = .protocolB ∨ s.mode = .undetermined ∧ code = s.cfg.signOn)
    (hl : resolveLength s.cfg code = some l) (hlen : l.toNat = params.length + 1) :
    feed (code :: params) s = .next (bodyComplete
      (takeBytes (code :: params) (enter .protocolB .readingBody l (Machine.startOp s)))) := by
  have hread : s.bytesRead = 0 := (h.v2 hs).1
  have h0 : l ≠ 0 := by rintro rfl; simp at hlen
  have hcode := h.pollBody_code hs hm hl h0
  rw [takeBytes_cons]
  cases params with
  | nil =>
    have hl1 : l = 1 := BitVec.eq_of_toNat_eq hlen
    have hreached : ¬ (takeByte code (Machine.startOp s)).bytesRead < l := by simp [hread, hl1]
    rw [feed_cons hcode, enterBodyB_eq, if_neg hreached]
    rfl
  | cons p ps =>
    have hbelow : (takeByte code (Machine.startOp s)).bytesRead < l := by
      simp only [takeByte_bytesRead, startOp_bytesRead, hread]
      rw [List.length_cons] at hlen
      bv_omega
    rw [enterBodyB_eq, if_pos hbelow] at hcode
    change _ = Host.Outcome.next (incomplete (enter .protocolB .readingBody l (takeByte code (Machine.startOp s)))) at hcode
    have hmissing : (0 + 1 : Half).toNat + (p :: ps).length = l.toNat := by
      rw [hlen]
      exact Nat.add_comm _ _
    rw [feed_cons hcode, (h.startOp.inv_pollBody hcode).feed_body rfl (by simp)
      (by simpa [incomplete, enter, hread] using hmissing), startOp_incomplete_enter]
    rfl

/-- Settles O57: the code's length is that of the frame, so the last byte completes the body. -/
theorem goodFrameBIsParsed : Obligations.GoodFrameBIsParsed := by
  intro s code params h hf hs hm hwf
  obtain ⟨l, hl, hlen⟩ := Option.map_eq_some_iff.1 (of_decide_eq_true hwf)
  have hlt := l.isLt
  have hread : s.bytesRead = 0 := (h.v2 hs).1
  have hfeed := h.feed_frameB hs hm hl hlen
  have hbytes := bufByte_takeBytes (s := enter .protocolB .readingBody l (startOp s)) h.bufForm hread
    (bs := code :: params) (by simp; omega)
  rw [bodyComplete_of_good (by simp [enter])] at hfeed
  refine ⟨_, (exec_wireBFrame_of_ready ⟨h.cfgOk, hf⟩ ..).trans hfeed, hbytes, ?_⟩
  refine (completeFrame_takeBytes (s := enter .protocolB .readingBody l (startOp s)) h.bufForm hread
    (by simp; omega)).trans ?_
  have hl' : l = BitVec.ofNat 16 (params.length + 1) := by rw [← hlen, BitVec.ofNat_toNat, BitVec.setWidth_eq]
  generalize (completeFrame (takeBytes (code :: params) (enter .protocolB .readingBody l (startOp s)))).buf = buf
  simp [enter, await, startOp, (h.v2 hs).2.2, h.frameIdle hs, hl', xorAll]

end Sys2Proof.Machine

/-! ## The frame state machine (40_frame_state_machine.md) -/

namespace Sys2Proof.Machine

/-! ### The early return, and a byte that is only taken (R101 to R103) -/

/-- Settles O24: in a ready state POLL begins with the early return. -/
theorem pollEarlyReturnChangesNothing : Obligations.PollEarlyReturnChangesNothing :=
  fun _ _ _ hr hidle => (operation_of_ready hr).trans (pollBody_idle hidle)

/-- Settles O58: the frame's first POLL finds the parser in Complete, and so do the others. -/
theorem frameInFlightIsNotConsumed : Obligations.FrameInFlightIsNotConsumed :=
  fun _ _ _ _ _ _ hr hs =>
    ⟨(exec_wireAFrame_of_ready hr ..).trans (feed_of_complete hs _ _),
      (exec_wireBFrame_of_ready hr ..).trans (feed_of_complete hs _ _)⟩

/-- An instruction that presents a byte outside Complete takes it and goes on as POLL does (log 8, log 9). -/
theorem Inv.exec_takes {s : State} {i : Instr} {b : Byte} (h : Inv s) (hf : s.fault = none) (hs : s.state ≠ .complete)
    (hp : presented i = some b) : exec i s = .next (afterIntake b (takeByte b (Machine.startOp s))) :=
  (h.exec_presented_eq_poll hp).trans (h.exec_poll_takes hf hs b)

/-- The same in Idle, where the byte is a first byte. -/
theorem Inv.exec_takes_idle {s : State} {i : Instr} {b : Byte} (h : Inv s) (hf : s.fault = none) (hs : s.state = .idle)
    (hp : presented i = some b) : exec i s = .next (idleStep b (takeByte b (Machine.startOp s))) := by
  rw [h.exec_takes hf (by simp [hs]) hp, h.startOp.afterIntake_idle hs]

/-- The same at header index 4, where the byte is the token (R112). -/
theorem Inv.exec_takes_token {s : State} {i : Instr} {b : Byte} (h : Inv s) (hf : s.fault = none)
    (hs : s.state = .readingHeader) (h4 : s.bytesRead = 4) (hp : presented i = some b) :
    exec i s = .next (if b = Config.token then lengthStep (takeByte b (Machine.startOp s))
      else headerError (takeByte b (Machine.startOp s))) := by
  rw [h.exec_takes hf (by simp [hs]) hp, h.startOp.afterIntake_token hs h4]

/-- Where nothing was stored after the intake, exactly the presented byte was stored, at `bytesRead` (R102). -/
theorem Inv.storesByte {s t : State} {b : Byte} {n : Half} (h : Inv s) (hbuf : t.buf = (takeByte b s).buf)
    (hdraws : t.draws = s.draws) (hn : s.bytesRead = n) : StoresByte s t n.toNat b := fun j =>
  (bufByte_congr (s := takeByte b s) hbuf hdraws j).trans (hn ▸ bufByte_takeByte s b j h.bufForm)

/-- Settles O25: after the intake the target is not reached. -/
theorem pollBelowTargetTakesByte : Obligations.PollBelowTargetTakesByte := by
  intro s b h hf hs hlt
  have hexec := h.exec_takes hf hs (i := .poll true b) rfl
  rw [afterIntake_below (s := takeByte b (startOp s)) hlt] at hexec
  exact ⟨_, hexec, h.storesByte rfl rfl rfl, rfl⟩

/-! ### HeaderError (R119) -/

/-- A byte that is answered with HeaderError: the whole next state. -/
theorem Inv.exec_headerError {s : State} {i : Instr} {b : Byte} {n : Half} (h : Inv s)
    (hexec : exec i s = .next (headerError (takeByte b (Machine.startOp s)))) (hn : s.bytesRead = n) :
    ∃ t, exec i s = .next t ∧ StoresByte s t n.toNat b ∧
      t = { s with
        state := .idle, bytesRead := 0, bytesWanted := 1, cksum := 0, buf := t.buf
        rxStream := s.rxStream ++ [b], rxFrame := [], result := some (pollWord true .headerError), txLast := [] } :=
  ⟨_, hexec, h.storesByte rfl rfl hn, rfl⟩

/-- The result words of POLLs that consumed a byte tell HeaderError from the other kinds. -/
theorem eq_headerError_of_pollWord {k : PollKind} (h : pollWord true k = pollWord true .headerError) :
    k = .headerError := by
  have hval := congrArg BitVec.toNat h
  rw [pollWord_toNat, pollWord_toNat] at hval
  cases k with
  | headerError => rfl
  | incomplete | checksumError => cases hval
  | command c => simp [pollKindCode, pollCodeField] at hval; omega

/-- If `t` answers HeaderError it is the HeaderError outcome in `s`. -/
def ErrsOnlySilently (s t : State) : Prop := t.result = some (pollWord true .headerError) → t = headerError s

theorem headerError_errsOnlySilently (s : State) : ErrsOnlySilently s (headerError s) := fun _ => rfl

theorem ErrsOnlySilently.of_other {k : PollKind} {s t : State} (ht : t.result = some (pollWord true k))
    (hk : k ≠ .headerError) : ErrsOnlySilently s t :=
  fun he => absurd (eq_headerError_of_pollWord (Option.some.inj (ht.symm.trans he))) hk

theorem incomplete_errsOnlySilently (s t : State) : ErrsOnlySilently s (incomplete t) := .of_other rfl nofun

theorem bodyComplete_errsOnlySilently (s t : State) : ErrsOnlySilently s (bodyComplete t) := by
  unfold bodyComplete
  split
  · exact .of_other (k := .checksumError) rfl nofun
  · exact .of_other (k := .command (commandCode t)) rfl nofun

theorem headerStep_errsOnlySilently (s : State) : ErrsOnlySilently s (headerStep s) := by
  unfold headerStep lengthStep
  split
  · exact headerError_errsOnlySilently s
  · split
    · exact headerError_errsOnlySilently s
    · exact incomplete_errsOnlySilently s _

theorem firstByteA_errsOnlySilently (b : Byte) (s : State) : ErrsOnlySilently s (firstByteA b s) := by
  unfold firstByteA
  split
  · exact headerError_errsOnlySilently s
  · exact incomplete_errsOnlySilently s _

theorem firstByteB_errsOnlySilently (b : Byte) (s : State) : ErrsOnlySilently s (firstByteB b s) := by
  cases hres : isResolved s.cfg b with
  | true =>
    obtain ⟨l, hl, h0⟩ := (isResolved_iff _ _).1 hres
    rw [firstByteB_of_resolved hl h0, enterBodyB_eq]
    split
    · exact incomplete_errsOnlySilently s _
    · exact bodyComplete_errsOnlySilently s _
  | false =>
    rw [firstByteB_of_unresolved hres]
    exact headerError_errsOnlySilently s

/-- Where the Idle step answers HeaderError, the only mode it may have selected is ProtocolB. -/
theorem idleStep_headerError {b : Byte} {s : State} (hr : (idleStep b s).result = some (pollWord true .headerError)) :
    idleStep b s = headerError s ∨
      s.mode = .undetermined ∧ b = s.cfg.signOn ∧ idleStep b s = headerError { s with mode := .protocolB } := by
  cases hm : s.mode with
  | undetermined =>
    by_cases hsign : b = s.cfg.signOn
    · rw [idleStep_signOn hm hsign] at hr ⊢
      exact .inr ⟨rfl, hsign, firstByteB_errsOnlySilently b _ hr⟩
    · by_cases hstart : b = Config.start
      · rw [idleStep_start hm hsign hstart, hstart, firstByteA_start] at hr
        cases eq_headerError_of_pollWord (Option.some.inj hr)
      · exact .inl (idleStep_fail hm hsign hstart)
  | protocolA => rw [idleStep_protocolA hm] at hr ⊢; exact .inl (firstByteA_errsOnlySilently b s hr)
  | protocolB => rw [idleStep_protocolB hm] at hr ⊢; exact .inl (firstByteB_errsOnlySilently b s hr)

theorem afterIntake_headerError {b : Byte} {s : State}
    (hr : (afterIntake b s).result = some (pollWord true .headerError)) : afterIntake b s = headerError s ∨
      s.mode = .undetermined ∧ b = s.cfg.signOn ∧ afterIntake b s = headerError { s with mode := .protocolB } := by
  unfold afterIntake at hr ⊢
  split at hr <;> rename_i hlt
  · exact .inl (by rw [if_pos hlt]; exact incomplete_errsOnlySilently s s hr)
  · simp only [if_neg hlt]
    split at hr
    · exact idleStep_headerError hr
    · exact .inl (headerStep_errsOnlySilently s hr)
    · exact .inl (bodyComplete_errsOnlySilently s s hr)
    · exact .inl (incomplete_errsOnlySilently s s hr)

/-- Settles O27: each step after the intake that answers HeaderError is the HeaderError outcome. -/
theorem headerErrorIsSilent : Obligations.HeaderErrorIsSilent := by
  intro s t b h hexec hr
  obtain ⟨-, rfl⟩ | ⟨-, -, -, rfl⟩ := pollBody_next (operation_next hexec).2
  · cases hr
  · obtain ht | ⟨hm, hb, ht⟩ := afterIntake_headerError hr <;> rw [ht]
    · exact ⟨h.storesByte rfl rfl rfl, .inl rfl, rfl⟩
    · exact ⟨h.storesByte rfl rfl rfl, .inr ⟨hm, hb, rfl⟩, rfl⟩

/-! ### The first byte: detection (R106, R107) -/

/-- Settles O28: the parser is idle, and the byte selects no protocol. -/
theorem detectionFailure : Obligations.DetectionFailure := by
  intro s b i h hf hm hsign hstart hi
  have hp : presented i = some b := by obtain rfl | rfl := hi <;> rfl
  have hs := h.v3 hm
  have hexec := h.exec_takes_idle hf hs hp
  rw [idleStep_fail (s := takeByte b (startOp s)) hm hsign hstart] at hexec
  exact hm ▸ h.exec_headerError hexec (h.v2 hs).1

/-- A first byte that begins a header or a body: the whole next state. -/
theorem Inv.exec_enter {s : State} {i : Instr} {b : Byte} {m : Mode} {st : ParserState} {n : Half} (h : Inv s)
    (hs : s.state = .idle) (hexec : exec i s = .next (incomplete (enter m st n (takeByte b (Machine.startOp s))))) :
    ∃ t, exec i s = .next t ∧ StoresByte s t 0 b ∧
      t = { s with
        mode := m, state := st, bytesRead := 1, bytesWanted := n, cksum := b, buf := t.buf
        rxStream := s.rxStream ++ [b], rxFrame := [b], result := some (pollWord true .incomplete), txLast := [] } := by
  obtain ⟨hread, -, hcksum⟩ := h.v2 hs
  refine ⟨_, hexec, h.storesByte rfl rfl hread, ?_⟩
  simp [incomplete, enter, await, answer, takeByte, Machine.startOp, hread, hcksum, h.frameIdle hs]

/-- Settles O29: START is not the SIGN_ON byte (W1), so it is the first byte of ProtocolA. -/
theorem startByteSelectsProtocolA : Obligations.StartByteSelectsProtocolA := by
  intro s i h hf hm hi
  have hp : presented i = some Config.start := by obtain rfl | rfl := hi <;> rfl
  have hs := h.v3 hm
  have hexec := h.exec_takes_idle hf hs hp
  rw [idleStep_start (s := takeByte Config.start (startOp s)) hm (Cfg_wf_codes s.cfg h.cfgOk).1.symm rfl,
    firstByteA_start] at hexec
  exact h.exec_enter hs hexec

/-- In Idle the invariant does not depend on the mode. -/
theorem Inv.withMode_of_idle {s : State} (h : Inv s) (hs : s.state = .idle) (m : Mode) : Inv { s with mode := m } where
  cfgOk := h.cfgOk
  v1 := h.v1
  v2 := h.v2
  v3 _ := hs
  v4 hs' := nomatch hs.symm.trans hs'
  v5 hs' := nomatch hs.symm.trans hs'
  v6 hs' := nomatch hs.symm.trans hs'
  v7 _ hne := absurd hs hne
  v8 := Mode.code_ne_three m
  frameIdle := h.frameIdle
  bufForm := h.bufForm
  bufBelow := h.bufBelow

/-- Settles O30: both are the first-byte step of ProtocolB on the same state. -/
theorem signOnByteSelectsProtocolB : Obligations.SignOnByteSelectsProtocolB := by
  intro s b i h hf hm hb hi
  have hp : presented i = some b := by obtain rfl | rfl := hi <;> rfl
  have hs := h.v3 hm
  have hexec := h.exec_takes_idle hf hs hp
  rw [idleStep_signOn (s := takeByte b (startOp s)) hm hb] at hexec
  exact ⟨_, hexec, (firstByteB_keeps b _).mode,
    (h.withMode_of_idle hs .protocolB).exec_takes_idle hf hs (i := .poll true b) rfl⟩

/-! ### The first byte: ProtocolA (R108) -/

/-- Settles O31: START begins a header, and any other byte is refused. -/
theorem firstByteOfProtocolA : Obligations.FirstByteOfProtocolA := by
  intro s b i h hf hs hm hi
  have hp : presented i = some b := by obtain rfl | ⟨-, rfl⟩ | ⟨-, rfl⟩ := hi <;> rfl
  have hexec := h.exec_takes_idle hf hs hp
  rw [idleStep_protocolA (s := takeByte b (startOp s)) hm] at hexec
  by_cases hb : b = 0x1B
  · subst hb
    exact h.exec_enter hs hexec
  · rw [firstByteA_of_ne hb] at hexec
    simp only [if_neg hb]
    exact h.exec_headerError hexec (h.v2 hs).1

/-! ### The first byte: ProtocolB (R109 to R111) -/

theorem resolveLength_of_extended {c : Cfg} {b : Byte} (h : b = c.ext0 ∨ b = c.ext1) : resolveLength c b = some 2 :=
  if_pos h

/-- The length of a code that is not extended comes from the table (R109). -/
theorem resolveLength_of_not_extended {c : Cfg} {b : Byte} (h0 : b ≠ c.ext0) (h1 : b ≠ c.ext1) :
    resolveLength c b = if c.tblBase.toNat ≤ b.toNat
      then (c.cmdLen[b.toNat - c.tblBase.toNat]?).map (fun l => l.setWidth 16) else none :=
  if_neg (not_or.2 ⟨h0, h1⟩)

/-- A code whose length is known begins a body of that length (R110). -/
theorem Inv.exec_code {s : State} {i : Instr} {b : Byte} {l : Half} (h : Inv s) (hf : s.fault = none)
    (hs : s.state = .idle) (hm : s.mode = .protocolB) (hp : presented i = some b)
    (hl : resolveLength s.cfg b = some l) (h0 : l ≠ 0) :
    exec i s = .next (enterBodyB l (takeByte b (Machine.startOp s))) := by
  rw [h.exec_takes_idle hf hs hp, idleStep_protocolB (s := takeByte b (Machine.startOp s)) hm,
    firstByteB_of_resolved (s := takeByte b (Machine.startOp s)) hl h0]

/-- A code of a length above 1 waits for the other bytes (R110): the whole next state. -/
theorem Inv.exec_code_waits {s : State} {i : Instr} {b : Byte} {l : Half} (h : Inv s) (hf : s.fault = none)
    (hs : s.state = .idle) (hm : s.mode = .protocolB) (hp : presented i = some b)
    (hl : resolveLength s.cfg b = some l) (h1 : 1 < l) :
    ∃ t, exec i s = .next t ∧ StoresByte s t 0 b ∧
      t = { s with
        state := .readingBody, bytesRead := 1, bytesWanted := l, cksum := b, buf := t.buf
        rxStream := s.rxStream ++ [b], rxFrame := [b], result := some (pollWord true .incomplete), txLast := [] } := by
  have hexec := h.exec_code hf hs hm hp hl (by rintro rfl; exact absurd h1 (by decide))
  have hread : (takeByte b (Machine.startOp s)).bytesRead = 1 := (h.startOp.firstByteTaken hs b).bytesRead
  rw [enterBodyB_eq, hread, if_pos h1] at hexec
  exact h.exec_enter hs hexec

/-- Settles O32: an extended code has the length 2. -/
theorem extendedCodeWaitsForOneMoreByte : Obligations.ExtendedCodeWaitsForOneMoreByte := by
  intro s b i h hf hs hm hb hi
  have hp : presented i = some b := by obtain rfl | rfl := hi <;> rfl
  exact h.exec_code_waits hf hs hm hp (resolveLength_of_extended hb) (by decide)

/-- A completion after the intake (R121): the whole next state, where the target is `n` bytes. -/
theorem Inv.exec_completeFrame {s : State} {i : Instr} {b : Byte} {st : ParserState} {n : Half} (h : Inv s)
    (hexec : exec i s = .next (completeFrame (await st n (takeByte b (Machine.startOp s))))) :
    ∃ t, exec i s = .next t ∧ StoresByte s t s.bytesRead.toNat b ∧
      t = { s with
        state := .complete, bytesRead := s.bytesRead + 1, bytesWanted := n, cksum := s.cksum ^^^ b, buf := t.buf
        bodySize := s.bytesRead, rxStream := s.rxStream ++ [b], rxFrame := s.rxFrame ++ [b]
        result := some (pollWord true (.command (bufByte t 0))), txLast := [] } := by
  have hsize : s.bytesRead + 1 - 1 = s.bytesRead := add_sub_cancel_right _ _
  refine ⟨_, hexec, h.storesByte rfl rfl rfl, ?_⟩
  simp only [completeFrame, await_bytesRead, takeByte_bytesRead, startOp_bytesRead, hsize]
  rfl

/-- Settles O33: with length 1 the code alone reaches the target, which completes the frame (R111, R121). -/
theorem tableCodeTakesItsLength : Obligations.TableCodeTakesItsLength := by
  intro s b l i h hf hs hm h0 h1 hbase hentry hl hi
  have hp : presented i = some b := by obtain rfl | rfl := hi <;> rfl
  have hlen : resolveLength s.cfg b = some (l.setWidth 16) := by
    rw [resolveLength_of_not_extended h0 h1, if_pos hbase, hentry]; rfl
  by_cases hone : l = 1
  · subst hone
    have hexec := h.exec_code hf hs hm hp hlen (by decide)
    have hread' := (h.startOp.firstByteTaken hs b).bytesRead
    rw [enterBodyB_eq, hread', if_neg (by decide), bodyComplete_of_good (by simp [hm])] at hexec
    obtain ⟨t, hexec, hstores, ht⟩ := h.exec_completeFrame hexec
    obtain ⟨hread, -, hcksum⟩ := h.v2 hs
    rw [hread] at hstores
    have hcommand : bufByte t 0 = b := hstores 0
    exact ⟨t, hexec, hstores, by simpa [hread, hcksum, h.frameIdle hs, hcommand] using ht⟩
  · simp only [if_neg hone]
    exact h.exec_code_waits hf hs hm hp hlen (by bv_omega)

/-- Settles O34: such a code has no length, or the length 0. -/
theorem unresolvedCodeIsHeaderError : Obligations.UnresolvedCodeIsHeaderError := by
  intro s b i h hf hs hm h0 h1 hout hi
  have hp : presented i = some b := by obtain rfl | rfl := hi <;> rfl
  have hlength : resolveLength s.cfg b = none ∨ resolveLength s.cfg b = some 0 := by
    rw [resolveLength_of_not_extended h0 h1]
    split
    · obtain hlow | hhigh | hzero := hout
      · omega
      · exact .inl (by rw [List.getElem?_eq_none (Nat.le_sub_of_add_le' hhigh)]; rfl)
      · exact .inr (by rw [hzero]; rfl)
    · exact .inl rfl
  have hunresolved : isResolved s.cfg b = false := by
    obtain hl | hl := hlength <;> simp [isResolved, hl]
  have hexec := h.exec_takes_idle hf hs hp
  rw [idleStep_protocolB (s := takeByte b (startOp s)) hm,
    firstByteB_of_unresolved (s := takeByte b (startOp s)) hunresolved] at hexec
  exact h.exec_headerError hexec (h.v2 hs).1

/-! ### The token and the length (R112 to R115) -/

/-- Settles O35: the byte stored at header index 4 is the token that the header step tests. -/
theorem wrongTokenIsHeaderError : Obligations.WrongTokenIsHeaderError := by
  intro s b i h hf hs h4 hb hi
  have hp : presented i = some b := by obtain rfl | rfl := hi <;> rfl
  have hexec := h.exec_takes_token hf hs h4 hp
  rw [if_neg (show b ≠ Config.token from hb)] at hexec
  exact h.exec_headerError hexec h4

/-- Settles O36: the verdict is on the two length bytes, which the token leaves as they are. -/
theorem headerLengthVerdict : Obligations.HeaderLengthVerdict := by
  intro s len i h hf hs h4 hlen hi
  have hp : presented i = some Config.token := by obtain rfl | rfl | rfl := hi <;> rfl
  have hkept (j : Nat) (hj : j ≠ 4) : bufByte (takeByte Config.token (startOp s)) j = bufByte s j := by
    rw [bufByte_takeByte (startOp s) _ _ h.bufForm, startOp_bytesRead, h4]
    exact if_neg hj
  have hlength : headerLength (takeByte Config.token (startOp s)) = len := by
    rw [headerLength, hkept 2 (by decide), hkept 3 (by decide)]
    exact BitVec.eq_of_toNat_eq ((be16_toNat _ _).trans hlen.symm)
  have hexec := h.exec_takes_token hf hs h4 hp
  rw [if_pos rfl, lengthStep, hlength, takeByte_cfg, startOp_cfg] at hexec
  by_cases hlong : s.cfg.maxBody < len
  · rw [if_pos hlong] at hexec
    simp only [if_pos (BitVec.lt_def.1 hlong)]
    exact h.exec_headerError hexec h4
  · rw [if_neg hlong, acceptHeader, hlength, headerSeq, hkept 1 (by decide)] at hexec
    simp only [if_neg (mt BitVec.lt_def.2 hlong)]
    exact ⟨_, hexec, h.storesByte rfl rfl h4, rfl⟩

/-! ### The body (R116, R117, R121) -/

/-- The last missing body byte brings the completion step. -/
theorem Inv.exec_last_body_byte {s : State} (h : Inv s) (hf : s.fault = none) (hs : s.state = .readingBody)
    (hlast : s.bytesRead + 1 = s.bytesWanted) (b : Byte) :
    exec (.poll true b) s = .next (bodyComplete (takeByte b (Machine.startOp s))) := by
  have hreached : ¬ s.bytesRead + 1 < s.bytesWanted := by rw [hlast]; exact BitVec.lt_irrefl _
  rw [h.exec_takes hf (by simp [hs]) rfl, afterIntake_body (s := takeByte b (Machine.startOp s)) hs hreached]

/-- Settles O37: the last byte brings the completion step, which finds no wrong checksum. -/
theorem lastBodyByteCompletes : Obligations.LastBodyByteCompletes := by
  intro s b h hf hs hlast hgood
  have hexec := h.exec_last_body_byte hf hs hlast b
  rw [bodyComplete_of_good (s := takeByte b (startOp s)) hgood] at hexec
  exact hlast ▸ h.exec_completeFrame (n := s.bytesWanted) hexec

/-- The checksum-error response stores the status at index 1 (42_response_encoder.md R151). -/
theorem bufByte_checksumError {s : State} (hm : Memory.wf s.draws s.buf = true) (j : Nat) :
    bufByte (checksumError s) j = if j = 1 then s.cfg.cksumErrStatus else bufByte s j :=
  bufByte_setBufByte s 1 _ j hm

/-- The checksum-error response is a ProtocolA frame of two body bytes, the command and the status
(42_response_encoder.md R158, the spec's decision D9). -/
theorem checksumError_txLast {s : State} (hm : Memory.wf s.draws s.buf = true) (hmode : s.mode = .protocolA)
    (hstart : s.txLast = []) : (checksumError s).txLast =
      frameA s.seq [bufByte s 0, s.cfg.cksumErrStatus] (checksumA s.seq [bufByte s 0, s.cfg.cksumErrStatus]) := by
  have hbody : bufBytes (setBufByte 1 s.cfg.cksumErrStatus s) 2 = [bufByte s 0, s.cfg.cksumErrStatus] := by
    simp [bufBytes, List.range_succ, bufByte_setBufByte _ _ _ _ hm]
  show s.txLast ++ responseBytes Config.cksumErrSize (setBufByte 1 s.cfg.cksumErrStatus s) = _
  rw [hstart, List.nil_append, responseBytes_protocolA (s := setBufByte 1 s.cfg.cksumErrStatus s) hmode]
  exact congrArg (fun body => frameA s.seq body (checksumA s.seq body)) hbody

/-- All that the checksum-error response transmits is appended to the stream (20_memory.md R52). -/
theorem checksumError_txStream {s : State} (hstart : s.txLast = []) :
    (checksumError s).txStream = s.txStream ++ (checksumError s).txLast := by
  simp [checksumError, emitResponse, hstart]

theorem bodyComplete_of_bad {s : State} (hm : s.mode = .protocolA) (hne : s.cksum ≠ 0) :
    bodyComplete s = checksumError s := if_pos ⟨hm, hne⟩

/-- Settles O38: the response is a frame of the command and the status, and the buffer is what the intake and the status
byte leave. -/
theorem checksumErrorResponds : Obligations.ChecksumErrorResponds := by
  intro s b code h hf hs hlast hm hbad hcode
  have hexec := h.exec_last_body_byte hf hs hlast b
  rw [bodyComplete_of_bad (s := takeByte b (startOp s)) hm hbad] at hexec
  have hform : Memory.wf (takeByte b (startOp s)).draws (takeByte b (startOp s)).buf = true :=
    (h.storageOk_takeByte (by simp [hs]) b).bufForm
  have hbytes (j : Nat) : bufByte (takeByte b (startOp s)) j = if j = s.bytesRead.toNat then b else bufByte s j :=
    bufByte_takeByte (startOp s) b j h.bufForm
  have hcommand : bufByte (takeByte b (startOp s)) 0 = code := by
    rw [hbytes, hcode]
    exact if_congr (by bv_omega) rfl rfl
  refine ⟨_, hexec, fun j => ?_, ?_, rfl⟩
  · rw [bufByte_checksumError hform, hbytes]; rfl
  · rw [checksumError_txLast hform hm rfl, hcommand]
    simp [frameA, headerA, checksumA, xorAll, hi8, lo8, Config.start, Config.token]

/-! ### A whole body (R116, R117, R121; 41_length_negotiation.md R141) -/

/-- Bytes taken one after the other stand in the frame buffer from `bytesRead` on. -/
theorem bufByte_takeBytes_from {s : State} (hm : Memory.wf s.draws s.buf = true) {bs : List Byte}
    (hlen : s.bytesRead.toNat + bs.length ≤ 2 ^ 16) (j : Nat) :
    bufByte (takeBytes bs s) j = if h : s.bytesRead.toNat ≤ j ∧ j - s.bytesRead.toNat < bs.length
      then bs[j - s.bytesRead.toNat]'h.2 else bufByte s j := by
  induction bs using List.reverseRecOn with
  | nil => simp [takeBytes]
  | append_singleton bs b ih =>
    rw [List.length_append, List.length_singleton] at hlen
    have hat : (takeBytes bs s).bytesRead.toNat = s.bytesRead.toNat + bs.length := by
      rw [takeBytes_bytesRead, BitVec.toNat_add, BitVec.toNat_ofNat]
      omega
    rw [takeBytes_concat, bufByte_takeByte _ _ _ (wf_buf_takeBytes hm bs), hat, ih (by omega)]
    by_cases he : j = s.bytesRead.toNat + bs.length
    · simp [he]
    · by_cases hj : s.bytesRead.toNat ≤ j ∧ j - s.bytesRead.toNat < bs.length
      · have hj' : j - s.bytesRead.toNat < bs.length + 1 := by omega
        simp [he, hj, hj', List.getElem_append_left hj.2]
      · rw [if_neg he, dif_neg hj, dif_neg]
        rw [List.length_append, List.length_singleton]
        omega

/-- Bytes that do not reach the target are only taken (R103). -/
theorem Inv.feed_waits {s : State} (h : Inv s) (hs : s.state ≠ .complete) {bs : List Byte} (hne : bs ≠ [])
    (hlen : s.bytesRead.toNat + bs.length < s.bytesWanted.toNat) :
    feed bs s = .next (incomplete (takeBytes bs (Machine.startOp s))) := by
  obtain ⟨as, b, rfl⟩ := List.eq_nil_or_concat bs |>.resolve_left hne
  simp only [List.concat_eq_append, List.length_append, List.length_singleton] at hlen ⊢
  rw [h.feed_below hs (by omega), afterIntake_below]
  rw [takeBytes_eq]
  simp only [startOp_bytesRead, startOp_bytesWanted, List.length_append, List.length_singleton]
  bv_omega

@[simp] theorem takeBytes_bytesWanted (bs : List Byte) (s : State) : (takeBytes bs s).bytesWanted = s.bytesWanted := by
  rw [takeBytes_eq]

@[simp] theorem takeBytes_seq (bs : List Byte) (s : State) : (takeBytes bs s).seq = s.seq := by rw [takeBytes_eq]

@[simp] theorem takeBytes_bodySize (bs : List Byte) (s : State) : (takeBytes bs s).bodySize = s.bodySize := by
  rw [takeBytes_eq]

@[simp] theorem takeBytes_rxStream (bs : List Byte) (s : State) : (takeBytes bs s).rxStream = s.rxStream ++ bs := by
  rw [takeBytes_eq]

@[simp] theorem takeBytes_txStream (bs : List Byte) (s : State) : (takeBytes bs s).txStream = s.txStream := by
  rw [takeBytes_eq]

@[simp] theorem takeBytes_txLast (bs : List Byte) (s : State) : (takeBytes bs s).txLast = s.txLast := by
  rw [takeBytes_eq]

/-- Bytes that 16 bits count are all counted. -/
theorem toNat_takeBytes_bytesRead {s : State} {bs : List Byte} (hlen : s.bytesRead.toNat + bs.length < 2 ^ 16) :
    (takeBytes bs s).bytesRead.toNat = s.bytesRead.toNat + bs.length := by
  rw [takeBytes_bytesRead, BitVec.toNat_add, BitVec.toNat_ofNat]
  omega

/-- Settles O39: the bytes are taken, and the last missing one brings the completion step. -/
theorem bodyTakesExactlyTheMissingBytes : Obligations.BodyTakesExactlyTheMissingBytes := by
  intro s bs h hf hs hle
  rw [← feed_eq_pollAll ⟨h.cfgOk, hf⟩]
  by_cases hbs : bs = []
  · have hmissing : s.bytesRead.toNat ≠ s.bytesWanted.toNat := Nat.ne_of_lt (BitVec.lt_def.1 (h.v5 hs).2)
    subst hbs
    exact ⟨s, rfl, by simp, rfl, rfl, by simp [hmissing, hs]⟩
  have hcount : s.bytesRead.toNat + bs.length < 2 ^ 16 := Nat.lt_of_le_of_lt hle s.bytesWanted.isLt
  have hform := wf_buf_takeBytes (s := startOp s) h.bufForm bs
  have hbytes := bufByte_takeBytes_from (s := startOp s) h.bufForm (Nat.le_of_lt hcount)
  have hread := toNat_takeBytes_bytesRead (s := startOp s) hcount
  have hrx := takeBytes_rxStream bs (startOp s)
  have hmode := takeBytes_mode bs (startOp s)
  have hseq := takeBytes_seq bs (startOp s)
  by_cases hdone : s.bytesRead.toNat + bs.length = s.bytesWanted.toNat
  · have hfeed := h.feed_body hs hbs hdone
    by_cases hbad : s.mode = .protocolA ∧ bs.foldl (· ^^^ ·) s.cksum ≠ 0
    · rw [bodyComplete_of_bad (by simpa using hbad.1) (by simpa using hbad.2)] at hfeed
      refine ⟨_, hfeed, hrx, hmode, hseq, ?_⟩
      rw [if_pos ⟨hdone, hbad⟩]
      refine ⟨rfl, rfl, rfl, rfl, takeBytes_bodySize bs _, rfl, ?_, ?_, fun j => ?_⟩
      · rw [checksumError_txStream (by simp), takeBytes_txStream, startOp_txStream]
      · rw [checksumError_txLast hform (by simpa using hbad.1) (by simp), length_frameA]; rfl
      · rw [bufByte_checksumError hform, hbytes, takeBytes_cfg]; rfl
    · rw [bodyComplete_of_good (by simpa using hbad)] at hfeed
      refine ⟨_, hfeed, hrx, hmode, hseq, ?_⟩
      rw [if_neg fun hall => hbad hall.2, if_pos hdone]
      have hall : (takeBytes bs (startOp s)).bytesRead = s.bytesWanted := BitVec.eq_of_toNat_eq (hread.trans hdone)
      exact ⟨hread, takeBytes_bytesWanted bs _, takeBytes_cksum bs _, takeBytes_txStream bs _, hbytes, rfl,
        congrArg (· - 1) hall, rfl⟩
  · have hfeed := h.feed_waits (by simp [hs]) hbs (Nat.lt_of_le_of_ne hle hdone)
    refine ⟨_, hfeed, hrx, hmode, hseq, ?_⟩
    rw [if_neg fun hall => hdone hall.1, if_neg hdone]
    exact ⟨hread, takeBytes_bytesWanted bs _, takeBytes_cksum bs _, takeBytes_txStream bs _, hbytes,
      (takeBytes_state bs _).trans hs, takeBytes_bodySize bs _⟩

/-! ### A ProtocolA frame with a wrong checksum (R117) -/

/-- The checksum register after the body and the last byte of a ProtocolA frame holds what that byte is wrong by. -/
theorem foldl_xor_body (q : Byte) (body : List Byte) (ck : Byte) :
    (body ++ [ck]).foldl (· ^^^ ·) (xorAll (headerA q (BitVec.ofNat 16 body.length))) = checksumA q body ^^^ ck := by
  rw [xorAll, ← List.foldl_append, ← List.append_assoc]
  exact xorAll_frameA q body ck

/-- Settles O56: the header is accepted, the body and the last byte are taken, and the checksum is wrong. -/
theorem badChecksumFrameAIsRejected : Obligations.BadChecksumFrameAIsRejected := by
  intro s q body ck h hf hs hm hlen hck
  have hcap : 5 + s.cfg.maxBody.toNat + 1 ≤ 0xFFFF := Cfg_cap_le s.cfg h.cfgOk
  have hfeed := h.feed_frameA hs hm q hlen ck
  have hw := h.bodyAwaitedA_eq hs q (BitVec.ofNat 16 body.length)
  have hinv := h.inv_feed (h.feed_headerA_accepted hs hm q (ofNat_length_le_maxBody hlen))
  generalize bodyAwaitedA q (BitVec.ofNat 16 body.length) s = w at *
  have hmode : w.mode = .protocolA := by rw [hw]
  have hread : w.bytesRead = 0 := by rw [hw]
  have hseq : w.seq = q := by rw [hw]
  have hcfg : w.cfg = s.cfg := by rw [hw]
  have hrx : w.rxStream = s.rxStream ++ headerA q (BitVec.ofNat 16 body.length) := by rw [hw]
  have hcksum : (body ++ [ck]).foldl (· ^^^ ·) w.cksum ≠ 0 := by
    rw [hw, foldl_xor_body]
    exact fun hzero => hck (BitVec.xor_eq_zero_iff.1 hzero).symm
  have hform := wf_buf_takeBytes (s := startOp w) hinv.bufForm (body ++ [ck])
  have hcommand : bufByte (takeBytes (body ++ [ck]) (startOp w)) 0 = (body ++ [ck]).headD 0 := by
    rw [bufByte_takeBytes (s := startOp w) hinv.bufForm hread (by simp; omega)]
    cases body <;> rfl
  have hmode' : (takeBytes (body ++ [ck]) (startOp w)).mode = .protocolA := (takeBytes_mode _ _).trans hmode
  rw [bodyComplete_of_bad hmode' (by simpa using hcksum)] at hfeed
  refine ⟨_, (exec_wireAFrame_of_ready ⟨h.cfgOk, hf⟩ ..).trans hfeed, rfl, rfl, hmode', ?_, ?_, ?_, ?_, ?_⟩
  · exact (takeBytes_seq _ _).trans hseq
  · exact (takeBytes_bodySize _ _).trans (by rw [startOp_bodySize, hw])
  · exact (takeBytes_rxStream _ _).trans (by rw [startOp_rxStream, hrx, frameA]; simp only [List.append_assoc])
  · rw [checksumError_txStream (by simp), takeBytes_txStream, startOp_txStream, hw]
  · rw [checksumError_txLast hform hmode' (by simp), hcommand, takeBytes_seq, takeBytes_cfg, startOp_seq, startOp_cfg,
      hseq, hcfg]

end Sys2Proof.Machine

/-! ## ProtocolB does not read the checksum register (40_frame_state_machine.md R120) -/

namespace Sys2Proof.Machine

/-- Two states in ProtocolB that differ in `cksum` at most. -/
structure AlikeB (s s' : State) : Prop where
  mode : s.mode = .protocolB
  butCksum : ∃ x, s' = { s with cksum := x }

/-- Two outcomes of the same kind whose next states, if any, are alike. -/
inductive AlikeOutcomes : Host.Outcome State Fault Refusal → Host.Outcome State Fault Refusal → Prop
  | next {t t' : State} (h : AlikeB t t') : AlikeOutcomes (.next t) (.next t')
  | fault (r : Fault) : AlikeOutcomes (.fault r) (.fault r)
  | refused (r : Refusal) : AlikeOutcomes (.refused r) (.refused r)

theorem AlikeB.ite {c : Prop} [Decidable c] {s s' t t' : State} (hs : AlikeB s s') (ht : AlikeB t t') :
    AlikeB (if c then s else t) (if c then s' else t') := by
  split
  · exact hs
  · exact ht

theorem AlikeOutcomes.ite {c : Prop} [Decidable c] {o o' p p' : Host.Outcome State Fault Refusal}
    (ho : c → AlikeOutcomes o o') (hp : AlikeOutcomes p p') :
    AlikeOutcomes (if c then o else p) (if c then o' else p') := by
  split
  · exact ho ‹_›
  · exact hp

section
variable {s s' : State}

theorem AlikeB.mode_right (h : AlikeB s s') : s'.mode = .protocolB := by obtain ⟨hm, x, rfl⟩ := h; exact hm

theorem AlikeB.cfg (h : AlikeB s s') : s'.cfg = s.cfg := by obtain ⟨-, x, rfl⟩ := h; rfl

theorem AlikeB.fault (h : AlikeB s s') : s'.fault = s.fault := by obtain ⟨-, x, rfl⟩ := h; rfl

theorem AlikeB.state (h : AlikeB s s') : s'.state = s.state := by obtain ⟨-, x, rfl⟩ := h; rfl

theorem AlikeB.bytesRead (h : AlikeB s s') : s'.bytesRead = s.bytesRead := by obtain ⟨-, x, rfl⟩ := h; rfl

theorem AlikeB.bytesWanted (h : AlikeB s s') : s'.bytesWanted = s.bytesWanted := by obtain ⟨-, x, rfl⟩ := h; rfl

theorem AlikeB.context (h : AlikeB s s') : context s' = context s := by obtain ⟨-, x, rfl⟩ := h; rfl

theorem AlikeB.bodySize (h : AlikeB s s') : s'.bodySize = s.bodySize := by obtain ⟨-, x, rfl⟩ := h; rfl

theorem AlikeB.bufByte (h : AlikeB s s') (i : Nat) : bufByte s' i = bufByte s i := by obtain ⟨-, x, rfl⟩ := h; rfl

theorem AlikeB.headerLength (h : AlikeB s s') : headerLength s' = headerLength s := by obtain ⟨-, x, rfl⟩ := h; rfl

theorem AlikeB.headerToken (h : AlikeB s s') : headerToken s' = headerToken s := by obtain ⟨-, x, rfl⟩ := h; rfl

/-! ### Each operation takes alike states to alike states -/

theorem AlikeB.alike_startOp (h : AlikeB s s') : AlikeB (startOp s) (startOp s') := by
  obtain ⟨hm, x, rfl⟩ := h; exact ⟨hm, x, rfl⟩

theorem AlikeB.alike_answer (h : AlikeB s s') (w : Word) : AlikeB (answer w s) (answer w s') := by
  obtain ⟨hm, x, rfl⟩ := h; exact ⟨hm, x, rfl⟩

theorem AlikeB.alike_raiseFault (h : AlikeB s s') (r : FaultReason) (w : Word) :
    AlikeB (raiseFault r w s) (raiseFault r w s') := by
  obtain ⟨hm, x, rfl⟩ := h; exact ⟨hm, x, rfl⟩

theorem AlikeB.alike_raiseTarget (h : AlikeB s s') (req : Half) : AlikeB (raiseTarget req s) (raiseTarget req s') := by
  obtain ⟨hm, x, rfl⟩ := h; exact ⟨hm, x, rfl⟩

theorem AlikeB.alike_setBufByte (h : AlikeB s s') (i : Nat) (v : Byte) :
    AlikeB (setBufByte i v s) (setBufByte i v s') := by
  obtain ⟨hm, x, rfl⟩ := h; exact ⟨hm, x, rfl⟩

/-- A response ends in a soft reset, and nothing it sends in ProtocolB is computed from the register
(42_response_encoder.md R155, R156). -/
theorem AlikeB.alike_emitResponse (h : AlikeB s s') (status : Byte) (size : Half) :
    AlikeB (emitResponse status size s) (emitResponse status size s') := by
  obtain ⟨hm, x, rfl⟩ := h; exact ⟨hm, 0, rfl⟩

theorem AlikeB.alike_await (h : AlikeB s s') (st : ParserState) (n : Half) : AlikeB (await st n s) (await st n s') := by
  obtain ⟨hm, x, rfl⟩ := h; exact ⟨hm, x, rfl⟩

/-- The intake carries the difference on. -/
theorem AlikeB.alike_takeByte (h : AlikeB s s') (b : Byte) : AlikeB (takeByte b s) (takeByte b s') := by
  obtain ⟨hm, x, rfl⟩ := h; exact ⟨hm, x ^^^ b, rfl⟩

theorem AlikeB.alike_incomplete (h : AlikeB s s') : AlikeB (incomplete s) (incomplete s') := h.alike_answer _

/-- A soft reset ends the difference. -/
theorem AlikeB.alike_headerError (h : AlikeB s s') : AlikeB (headerError s) (headerError s') := by
  obtain ⟨hm, x, rfl⟩ := h; exact ⟨hm, 0, rfl⟩

theorem AlikeB.alike_completeFrame (h : AlikeB s s') : AlikeB (completeFrame s) (completeFrame s') := by
  obtain ⟨hm, x, rfl⟩ := h; exact ⟨hm, x, rfl⟩

/-- The one reader of the register is the checksum verdict, which is ProtocolA's alone (R117). -/
theorem bodyComplete_of_protocolB (hm : s.mode = .protocolB) : bodyComplete s = completeFrame s :=
  bodyComplete_of_good fun hA => nomatch hm.symm.trans hA

theorem AlikeB.alike_bodyComplete (h : AlikeB s s') : AlikeB (bodyComplete s) (bodyComplete s') := by
  rw [bodyComplete_of_protocolB h.mode, bodyComplete_of_protocolB h.mode_right]
  exact h.alike_completeFrame

theorem AlikeB.alike_acceptHeader (h : AlikeB s s') : AlikeB (acceptHeader s) (acceptHeader s') := by
  obtain ⟨hm, x, rfl⟩ := h; exact ⟨hm, x, rfl⟩

theorem AlikeB.alike_lengthStep (h : AlikeB s s') : AlikeB (lengthStep s) (lengthStep s') := by
  rw [lengthStep, lengthStep, h.cfg, h.headerLength]
  exact h.alike_headerError.ite h.alike_acceptHeader

theorem AlikeB.alike_headerStep (h : AlikeB s s') : AlikeB (headerStep s) (headerStep s') := by
  rw [headerStep, headerStep, h.headerToken]
  exact h.alike_headerError.ite h.alike_lengthStep

theorem AlikeB.alike_enterBodyB (h : AlikeB s s') (l : Half) : AlikeB (enterBodyB l s) (enterBodyB l s') := by
  have hawait := h.alike_await .readingBody l
  rw [enterBodyB_eq, enterBodyB_eq, h.bytesRead]
  exact hawait.alike_incomplete.ite hawait.alike_bodyComplete

theorem AlikeB.alike_firstByteB (h : AlikeB s s') (b : Byte) : AlikeB (firstByteB b s) (firstByteB b s') := by
  cases hres : isResolved s.cfg b with
  | true =>
    obtain ⟨l, hl, h0⟩ := (isResolved_iff _ _).1 hres
    rw [firstByteB_of_resolved hl h0, firstByteB_of_resolved (h.cfg ▸ hl) h0]
    exact h.alike_enterBodyB l
  | false =>
    rw [firstByteB_of_unresolved hres, firstByteB_of_unresolved (h.cfg ▸ hres)]
    exact h.alike_headerError

theorem AlikeB.alike_idleStep (h : AlikeB s s') (b : Byte) : AlikeB (idleStep b s) (idleStep b s') := by
  rw [idleStep_protocolB h.mode, idleStep_protocolB h.mode_right]
  exact h.alike_firstByteB b

theorem AlikeB.alike_afterIntake (h : AlikeB s s') (b : Byte) : AlikeB (afterIntake b s) (afterIntake b s') := by
  rw [afterIntake, afterIntake, h.bytesRead, h.bytesWanted, h.state]
  refine h.alike_incomplete.ite ?_
  cases s.state with
  | idle => exact h.alike_idleStep b
  | readingHeader => exact h.alike_headerStep
  | readingBody => exact h.alike_bodyComplete
  | complete => exact h.alike_incomplete

theorem AlikeB.alike_presentByte (h : AlikeB s s') {b : Byte} {rest : State → State}
    (hrest : AlikeB (rest (takeByte b s)) (rest (takeByte b s'))) :
    AlikeOutcomes (presentByte b rest s) (presentByte b rest s') := by
  rw [presentByte, presentByte, h.bytesRead, h.cfg]
  exact .ite (fun _ => .next hrest) (.fault _)

theorem AlikeB.alike_pollBody (h : AlikeB s s') (v : Bool) (b : Byte) :
    AlikeOutcomes (pollBody v b s) (pollBody v b s') := by
  rw [pollBody, pollBody, h.state]
  exact .ite (fun _ => .next (h.alike_answer _)) (h.alike_presentByte ((h.alike_takeByte b).alike_afterIntake b))

theorem AlikeB.alike_feed (h : AlikeB s s') (bs : List Byte) : AlikeOutcomes (feed bs s) (feed bs s') := by
  induction bs generalizing s s' with
  | nil => exact .next h
  | cons b bs ih =>
    have hpoll := h.alike_startOp.alike_pollBody true b
    rw [feed, feed]
    generalize pollBody true b (startOp s) = o, pollBody true b (startOp s') = o' at hpoll
    cases hpoll with
    | next ht => exact ih ht
    | fault r => exact .fault r
    | refused r => exact .refused r

/-! ### Every instruction -/

theorem AlikeB.alike_operation (h : AlikeB s s') {body : State → Host.Outcome State Fault Refusal}
    (hbody : ∀ u u', AlikeB u u' → AlikeOutcomes (body u) (body u')) :
    AlikeOutcomes (operation s body) (operation s' body) := by
  rw [operation, operation, ifReady, ifReady, h.cfg, h.fault]
  refine .ite (fun _ => ?_) (.refused _)
  cases s.fault with
  | none => exact hbody _ _ h.alike_startOp
  | some f => exact .fault _

/-- A row whose own effect, in its context, does not read the register. -/
theorem AlikeB.alike_rxRow (h : AlikeB s s') {i : Instr} {b : Byte} {row : State → State}
    (hrow : ∀ u u', AlikeB u u' → i.inContext (Machine.context u) = true →
      AlikeB (row (takeByte b u)) (row (takeByte b u'))) :
    AlikeOutcomes (rxRow i b row s) (rxRow i b row s') := by
  refine h.alike_operation fun u u' hu => ?_
  rw [hu.cfg, hu.context]
  exact .ite (fun hc => hu.alike_presentByte (hrow u u' hu (Bool.and_eq_true_iff.1 hc).2)) (hu.alike_pollBody true b)

theorem AlikeB.alike_exec_rxALength (h : AlikeB s s') (len : Half) :
    AlikeOutcomes (exec (.rxALength len) s) (exec (.rxALength len) s') := by
  rw [exec_rxALength, exec_rxALength]
  refine h.alike_operation fun u u' hu => ?_
  have htaken := hu.alike_takeByte Config.token
  rw [hu.context, hu.headerLength]
  refine .ite (fun _ => hu.alike_presentByte ?_) (hu.alike_pollBody true _)
  rw [htaken.cfg]
  refine htaken.alike_headerError.ite ?_
  obtain ⟨hm, x, hx⟩ := htaken
  exact ⟨hm, x, by rw [hx]; rfl⟩

/-- An access through the interpreter port that does not read the register. -/
theorem AlikeB.alike_bufAccess (h : AlikeB s s') {w : Word} {addr : Half} {access : State → State}
    (haccess : ∀ u u', AlikeB u u' → AlikeB (access u) (access u')) :
    AlikeOutcomes (bufAccess w addr access s) (bufAccess w addr access s') := by
  refine h.alike_operation fun u u' hu => ?_
  rw [hu.state, hu.cfg]
  exact .ite (fun _ => .next (hu.alike_raiseFault _ _))
    (.ite (fun _ => .next (hu.alike_raiseFault _ _)) (.next (haccess u u' hu)))

theorem AlikeB.alike_exec (h : AlikeB s s') {i : Instr} (hi : i ≠ .reset) : AlikeOutcomes (exec i s) (exec i s') := by
  have refuse (w : Word) : AlikeOutcomes (refuseWord w s) (refuseWord w s') :=
    h.alike_operation fun _ _ hu => .next (hu.alike_raiseFault _ w)
  cases i with
  | poll v b => exact h.alike_operation fun _ _ hu => hu.alike_pollBody v b
  | ensure req =>
    rw [exec_ensure, exec_ensure]
    refine h.alike_operation fun u u' hu => ?_
    rw [hu.state, hu.bytesWanted, hu.cfg]
    exact .ite (fun _ => .next (hu.alike_raiseFault _ _)) (.ite (fun _ => .next (hu.alike_answer _))
      (.ite (fun _ => .next (hu.alike_raiseFault _ _)) (.next ((hu.alike_raiseTarget req).alike_answer _))))
  | send status size =>
    rw [exec_send, exec_send]
    refine h.alike_operation fun u u' hu => ?_
    rw [hu.cfg]
    exact .ite (fun _ => .next (hu.alike_raiseFault _ _)) (.next ((hu.alike_emitResponse status size).alike_answer _))
  | bufRd addr =>
    change AlikeOutcomes (execBufRd addr s) (execBufRd addr s')
    refine h.alike_bufAccess fun u u' hu => ?_
    rw [hu.bufByte]
    exact hu.alike_answer _
  | bufWr data addr => exact h.alike_bufAccess fun _ _ hu => (hu.alike_setBufByte _ data).alike_answer _
  | getSize =>
    rw [exec_getSize, exec_getSize]
    refine h.alike_operation fun u u' hu => ?_
    rw [hu.bodySize]
    exact .next (hu.alike_answer _)
  | reservedOp67 low => exact refuse _
  | reservedOp815 low => exact refuse _
  | reservedBits w => exact refuse _
  | reset => exact absurd rfl hi
  | rxDetectSignOn b =>
    exact h.alike_rxRow fun u _ hu hc => nomatch hu.mode.symm.trans ((inContext_rxDetectSignOn u b).1 hc).2
  | rxDetectStart b =>
    exact h.alike_rxRow fun u _ hu hc => nomatch hu.mode.symm.trans ((inContext_rxDetectStart u b).1 hc).2
  | rxDetectFail b => exact h.alike_rxRow fun _ _ hu _ => (hu.alike_takeByte b).alike_headerError
  | rxAStart b => exact h.alike_rxRow fun _ _ hu _ => ((hu.alike_takeByte b).alike_await _ _).alike_incomplete
  | rxABadStart b => exact h.alike_rxRow fun _ _ hu _ => (hu.alike_takeByte b).alike_headerError
  | rxAToken b =>
    exact h.alike_rxRow fun _ _ hu _ =>
      (hu.alike_takeByte b).alike_lengthStep.ite (hu.alike_takeByte b).alike_headerError
  | rxALength len => exact h.alike_exec_rxALength len
  | rxBExt b => exact h.alike_rxRow fun _ _ hu _ => ((hu.alike_takeByte b).alike_await _ _).alike_incomplete
  | rxBTable b =>
    refine h.alike_rxRow fun u u' hu _ => ?_
    rw [(hu.alike_takeByte b).cfg]
    exact (hu.alike_takeByte b).alike_enterBodyB _
  | rxBUnresolved b => exact h.alike_rxRow fun _ _ hu _ => (hu.alike_takeByte b).alike_headerError
  | wireAFrame q body ck => exact h.alike_operation fun _ _ hu => hu.alike_feed _
  | wireBFrame code params => exact h.alike_operation fun _ _ hu => hu.alike_feed _

end

/-- Settles O40: only the checksum verdict reads the register, and it does so in ProtocolA alone; a hard reset clears
it. -/
theorem checksumIsUnreadInProtocolB : Obligations.ChecksumIsUnreadInProtocolB := by
  intro i s t x hm hexec
  by_cases hi : i = .reset
  · subst hi
    obtain ⟨hr, ht⟩ := operation_next ((exec_reset s).symm.trans hexec)
    cases ht
    exact ⟨0, (exec_reset _).trans (operation_of_ready (s := { s with cksum := x }) hr)⟩
  · have halike : AlikeB s { s with cksum := x } := ⟨hm, x, rfl⟩
    have hout := halike.alike_exec hi
    rw [hexec] at hout
    generalize exec i { s with cksum := x } = o at hout
    cases hout with
    | next ht => obtain ⟨-, y, rfl⟩ := ht; exact ⟨y, rfl⟩

end Sys2Proof.Machine

/-! ## Length negotiation (41_length_negotiation.md) -/

namespace Sys2Proof.Machine

/-! ### ENSURE by the parser's phase (R140) -/

/-- Out of phase, ENSURE only records the fault (R144). -/
theorem exec_ensure_of_headerPhase {s : State} (hr : Ready s) (hs : s.state = .idle ∨ s.state = .readingHeader)
    (req : Half) : exec (.ensure req) s = .next (raiseFault .ensurePhase (ensureRequest req) (startOp s)) :=
  calc exec (.ensure req) s = _ := (exec_ensure s req).trans (operation_of_ready hr)
    _ = .next (raiseFault .ensurePhase (ensureRequest req) (startOp s)) := if_pos hs

/-- In phase, ENSURE compares its request with the target and then with CAP (R142, R145). -/
theorem exec_ensure_of_bodyPhase {s : State} (hr : Ready s) (hs : s.state = .readingBody ∨ s.state = .complete)
    (req : Half) : exec (.ensure req) s =
      if req ≤ s.bytesWanted then .next (answer (okWord true) (startOp s))
      else if s.cfg.cap < req.toNat then .next (raiseFault .ensureOverflow (ensureRequest req) (startOp s))
      else .next (answer (okWord false) (raiseTarget req (startOp s))) := by
  have hphase : ¬ (s.state = .idle ∨ s.state = .readingHeader) := by
    obtain hs | hs := hs <;> simp [hs]
  calc exec (.ensure req) s = _ := (exec_ensure s req).trans (operation_of_ready hr)
    _ = _ := if_neg hphase

/-- A larger target keeps the parser reading a body, and reopens a completed frame (R141, R143). -/
theorem raiseTarget_of_bodyPhase {s : State} (hs : s.state = .readingBody ∨ s.state = .complete) (req : Half) :
    raiseTarget req s = { s with state := .readingBody, bytesWanted := req } := by
  obtain hs | hs := hs <;> rw [raiseTarget, hs]

/-- Settles O43: the comparison with the target comes before that with CAP. -/
theorem ensureMetTargetIsNoOp : Obligations.EnsureMetTargetIsNoOp :=
  fun _ req hr hs hmet => (exec_ensure_of_bodyPhase hr hs req).trans (if_pos hmet)

/-- Settles O44: neither comparison holds, so the target is raised. -/
theorem ensureRaisesTargetAndReopens : Obligations.EnsureRaisesTargetAndReopens := by
  intro s req hr hs hlt hcap
  rw [exec_ensure_of_bodyPhase hr hs, if_neg (BitVec.not_le.2 hlt), if_neg (Nat.not_lt.2 hcap),
    raiseTarget_of_bodyPhase (s := startOp s) hs]
  rfl

/-- Settles O45: out of phase the request is not looked at; in phase it is above the target and above CAP. -/
theorem ensureFaults : Obligations.EnsureFaults := by
  intro s req hr
  refine ⟨fun hs => exec_ensure_of_headerPhase hr hs req, fun hs hlt hcap => ?_⟩
  rw [exec_ensure_of_bodyPhase hr hs, if_neg (BitVec.not_le.2 hlt), if_pos hcap]
  rfl

end Sys2Proof.Machine

/-! ## The response encoder (42_response_encoder.md) -/

namespace Sys2Proof.Machine

/-! ### SEND by the size asked for (R150, R157) -/

/-- Above CAP, SEND only records the fault (R157). -/
theorem exec_send_of_overflow {s : State} {size : Half} (hr : Ready s) (hsize : s.cfg.cap < size.toNat)
    (status : Byte) : exec (.send status size) s =
      .next (raiseFault .sendOverflow (sendRequest status size) (startOp s)) :=
  calc exec (.send status size) s = _ := (exec_send s status size).trans (operation_of_ready hr)
    _ = .next (raiseFault .sendOverflow (sendRequest status size) (startOp s)) := if_pos hsize

/-- Up to CAP, SEND is `EmitResponse` (R150). -/
theorem exec_send_of_fits {s : State} {size : Half} (hr : Ready s) (hsize : size.toNat ≤ s.cfg.cap)
    (status : Byte) : exec (.send status size) s = .next (answer zeroWord (emitResponse status size (startOp s))) :=
  calc exec (.send status size) s = _ := (exec_send s status size).trans (operation_of_ready hr)
    _ = .next (answer zeroWord (emitResponse status size (startOp s))) := if_neg (Nat.not_lt.2 hsize)

/-- Settles O48: the comparison with CAP comes before anything is stored or transmitted. -/
theorem sendOverflowFaults : Obligations.SendOverflowFaults :=
  fun _ status _ hr hsize => exec_send_of_overflow hr hsize status

/-! ### What SEND transmits (R151 to R155) -/

/-- The first bytes of the frame buffer after one store. -/
theorem bufBytes_setBufByte {s : State} (hm : Memory.wf s.draws s.buf = true) (i : Nat) (v : Byte) (n : Nat) :
    bufBytes (setBufByte i v s) n = (List.range n).map fun j => if j = i then v else bufByte s j :=
  List.map_congr_left fun j _ => bufByte_setBufByte s i v j hm

/-- Outside ProtocolA a response has no envelope (R155, the spec's decision D14). -/
theorem responseBytes_without_envelope {s : State} (hm : s.mode = .protocolB ∨ s.mode = .undetermined) (size : Half) :
    responseBytes size s = bufBytes s size.toNat := by
  obtain hm | hm := hm <;> rw [responseBytes, hm]

/-- The checksum of a response, as the transmitter runs it over the header and then the body (R154). -/
theorem xorAll_headerA_append (q : Byte) (len : Half) (body : List Byte) :
    xorAll (headerA q len ++ body) =
      body.foldl (· ^^^ ·) (Config.start ^^^ q ^^^ hi8 len ^^^ lo8 len ^^^ Config.token) := by
  rw [xorAll, List.foldl_append]
  simp only [headerA, List.foldl_cons, List.foldl_nil, BitVec.ofNat_eq_ofNat, BitVec.zero_xor]

/-- A SEND that fits stores the status at index 1, transmits the response bytes of the buffer with the status in it, and
releases the parser; it keeps everything else (R151, R156). -/
theorem Inv.exec_send_responds {s : State} (h : Inv s) (hf : s.fault = none) (status : Byte) {size : Half}
    (hsize : size.toNat ≤ s.cfg.cap) :
    ∃ t, exec (.send status size) s = .next t ∧ StoresByte s t 1 status ∧
      t.txLast = responseBytes size (setBufByte 1 status s) ∧
      t = { s with
        state := .idle, bytesRead := 0, bytesWanted := 1, cksum := 0, buf := t.buf, rxFrame := []
        txStream := s.txStream ++ t.txLast, txLast := t.txLast, result := some 0 } :=
  ⟨_, exec_send_of_fits ⟨h.cfgOk, hf⟩ hsize status, fun j => bufByte_setBufByte s 1 status j h.bufForm, rfl, rfl⟩

/-- Settles O46: in ProtocolA the response bytes are the header, the buffer with the status in it, and the checksum. -/
theorem sendInProtocolA : Obligations.SendInProtocolA := by
  intro s status size body h hf hmode hsize hbody
  obtain ⟨t, hexec, hstore, htx, ht⟩ := h.exec_send_responds hf status hsize
  have hsent : responseBytes size (setBufByte 1 status s) =
      headerA s.seq size ++ body ++ [xorAll (headerA s.seq size ++ body)] := by
    rw [responseBytes, setBufByte_mode, hmode, hbody, ← bufBytes_setBufByte h.bufForm]
    rfl
  refine ⟨t, hexec, hstore, ?_, ht⟩
  rw [htx, hsent, xorAll_headerA_append]
  rfl

/-- Settles O47: outside ProtocolA the response bytes are the buffer with the status in it. -/
theorem sendWithoutEnvelope : Obligations.SendWithoutEnvelope := by
  intro s status size h hf hmode hsize
  obtain ⟨t, hexec, hstore, htx, ht⟩ := h.exec_send_responds hf status hsize
  have hsent := responseBytes_without_envelope (s := setBufByte 1 status s) hmode size
  exact ⟨t, hexec, hstore, htx.trans (hsent.trans (bufBytes_setBufByte h.bufForm 1 status size.toNat)), ht⟩

end Sys2Proof.Machine

/-! ## The interpreter port (43_interpreter_port.md) -/

namespace Sys2Proof

/-! ### Which request words are reserved (R175; 30_encoding.md R71) -/

/-- The three reserved rows of the opcode table. -/
def Instr.isReserved : Instr → Bool
  | .reservedOp67 _ | .reservedOp815 _ | .reservedBits _ => true
  | .poll _ _ | .ensure _ | .send _ _ | .bufRd _ | .bufWr _ _ | .getSize | .reset | .rxDetectSignOn _ | .rxDetectStart _
  | .rxDetectFail _ | .rxAStart _ | .rxABadStart _ | .rxAToken _ | .rxALength _ | .rxBExt _ | .rxBTable _
  | .rxBUnresolved _ | .wireAFrame _ _ _ | .wireBFrame _ _ => false

theorem opOf_eq_shiftRight (w : Word) : opOf w = (w >>> 28).toNat := by
  rw [opOf_eq_div, BitVec.toNat_ushiftRight, Nat.shiftRight_eq_div_pow]

/-- A word is read as a reserved row exactly if its operation code is reserved or a reserved bit is set. -/
theorem isReserved_decodeWord_iff (w : Word) :
    (decodeWord w).isReserved = true ↔ 6 ≤ opOf w ∨ w &&& reservedMask (opOf w) ≠ 0 := by
  by_cases hbits : w &&& reservedMask (opOf w) ≠ 0
  · rw [decodeWord_of_reservedBits hbits]
    exact iff_of_true rfl (.inr hbits)
  by_cases hhigh : 8 ≤ opOf w
  · rw [decodeWord_of_high hhigh]
    exact iff_of_true rfl (.inl (by omega))
  rw [decodeWord, if_neg hbits, or_iff_left hbits]
  generalize opOf w = op at hhigh
  interval_cases op <;> simp [Instr.isReserved]

end Sys2Proof

namespace Sys2Proof.Machine

/-! ### BUF_RD, BUF_WR and GET_SIZE (R171 to R174) -/

theorem exec_bufRd_eq_access (s : State) (addr : Half) : exec (.bufRd addr) s =
    bufAccess (bufRdRequest addr) addr (fun s => answer (byteWord (bufByte s addr.toNat)) s) s := rfl

theorem exec_bufWr_eq_access (s : State) (data : Byte) (addr : Half) : exec (.bufWr data addr) s =
    bufAccess (bufWrRequest data addr) addr (fun s => answer zeroWord (setBufByte addr.toNat data s)) s := rfl

/-- Outside Complete an access only records the fault (R171). -/
theorem bufAccess_of_wrongPhase {s : State} (hr : Ready s) (hs : s.state ≠ .complete) (w : Word) (addr : Half)
    (access : State → State) : bufAccess w addr access s = .next (raiseFault .bufPhase w (startOp s)) :=
  (operation_of_ready hr).trans (if_pos hs)

/-- In Complete the address is compared with CAP before the access (20_memory.md R59). -/
theorem bufAccess_of_complete {s : State} (hr : Ready s) (hs : s.state = .complete) (w : Word) (addr : Half)
    (access : State → State) : bufAccess w addr access s =
      if s.cfg.cap ≤ addr.toNat then .next (raiseFault .bufRange w (startOp s)) else .next (access (startOp s)) :=
  (operation_of_ready hr).trans (if_neg (not_not.2 hs))

theorem bufAccess_of_outOfRange {s : State} {addr : Half} (hr : Ready s) (hs : s.state = .complete)
    (haddr : s.cfg.cap ≤ addr.toNat) (w : Word) (access : State → State) :
    bufAccess w addr access s = .next (raiseFault .bufRange w (startOp s)) :=
  (bufAccess_of_complete hr hs w addr access).trans (if_pos haddr)

theorem bufAccess_of_inRange {s : State} {addr : Half} (hr : Ready s) (hs : s.state = .complete)
    (haddr : addr.toNat < s.cfg.cap) (w : Word) (access : State → State) :
    bufAccess w addr access s = .next (access (startOp s)) :=
  (bufAccess_of_complete hr hs w addr access).trans (if_neg (Nat.not_le.2 haddr))

/-- Settles O51: the phase is checked first, then the range, and both operations are an access with their own word. -/
theorem portFaults : Obligations.PortFaults := by
  intro s data addr hr
  rw [exec_bufRd_eq_access, exec_bufWr_eq_access]
  exact ⟨fun hs => ⟨bufAccess_of_wrongPhase hr hs _ _ _, bufAccess_of_wrongPhase hr hs _ _ _⟩,
    fun hs haddr => ⟨bufAccess_of_outOfRange hr hs haddr _ _, bufAccess_of_outOfRange hr hs haddr _ _⟩⟩

/-- Settles O50: with both checks passed, BUF_RD answers and BUF_WR stores; GET_SIZE has no check. -/
theorem portOperationsComplete : Obligations.PortOperationsComplete := by
  refine ⟨fun s addr hr hs haddr => (exec_bufRd_eq_access s addr).trans (bufAccess_of_inRange hr hs haddr _ _),
    fun s data addr h hf hs haddr => ?_, fun s hr => (exec_getSize s).trans (operation_of_ready hr)⟩
  have hstore : StoresByte s (setBufByte addr.toNat data (startOp s)) addr.toNat data :=
    fun j => bufByte_setBufByte (startOp s) addr.toNat data j h.bufForm
  have hexec := (exec_bufWr_eq_access s data addr).trans (bufAccess_of_inRange ⟨h.cfgOk, hf⟩ hs haddr _ _)
  exact ⟨_, hexec, hstore, rfl⟩

/-! ### Reserved words are refused (R175) -/

/-- A reserved word only records the fault. -/
theorem refuseWord_of_ready {s : State} (hr : Ready s) (w : Word) :
    refuseWord w s = .next (raiseFault .refused w (startOp s)) :=
  operation_of_ready hr

/-- Settles O52: each of the rows is the refusal of its own word. -/
theorem reservedRowsAreRefused : Obligations.ReservedRowsAreRefused :=
  fun _ _ _ _ hr => ⟨refuseWord_of_ready hr _, refuseWord_of_ready hr _, refuseWord_of_ready hr _⟩

/-- A reserved row refuses the word that it was read from. -/
theorem exec_of_isReserved {i : Instr} {w : Word} (hi : i.isReserved = true) (hw : encode i = .request w) (s : State) :
    exec i s = refuseWord w s := by
  cases i with
  | reservedOp67 | reservedOp815 | reservedBits => cases hw; rfl
  | poll | ensure | send | bufRd | bufWr | getSize | reset | rxDetectSignOn | rxDetectStart | rxDetectFail | rxAStart
  | rxABadStart | rxAToken | rxALength | rxBExt | rxBTable | rxBUnresolved | wireAFrame | wireBFrame => cases hi

/-- The state after an operation has no refusal recorded: it recorded no fault, or one with another reason. -/
inductive Unrefused : State → Prop
  | quiet {t : State} (h : t.fault = none) : Unrefused t
  | other {r : FaultReason} (hr : r ≠ .refused) (w : Word) (s : State) : Unrefused (raiseFault r w s)

theorem Unrefused.fault_ne {t : State} (h : Unrefused t) (w : Word) : t.fault ≠ some ⟨.refused, w⟩ := by
  cases h with
  | quiet h => rw [h]; nofun
  | other hr => exact fun he => hr (congrArg FaultRecord.reason (Option.some.inj he))

theorem bufAccess_unrefused {w : Word} {addr : Half} {access : State → State} {s t : State}
    (haccess : (access (startOp s)).fault = s.fault) (h : bufAccess w addr access s = .next t) : Unrefused t := by
  obtain ⟨hr, h⟩ := operation_next h
  split at h
  · cases h; exact .other (by decide) _ _
  · split at h <;> cases h
    · exact .other (by decide) _ _
    · exact .quiet (haccess.trans hr.2)

/-- Only the reserved rows among the requests record a refusal (60_exceptions.md R205). -/
theorem exec_request_unrefused {i : Instr} {w : Word} {s t : State} (hw : encode i = .request w)
    (hi : i.isReserved = false) (h : exec i s = .next t) : Unrefused t := by
  cases i with
  | poll v b =>
    obtain ⟨hr, h⟩ := operation_next h
    exact .quiet (hr.of_pollBody h).2
  | ensure req =>
    obtain ⟨hr, h⟩ := operation_next ((exec_ensure s req).symm.trans h)
    split at h
    · cases h; exact .other (by decide) _ _
    · split at h
      · cases h; exact .quiet hr.2
      · split at h <;> cases h
        · exact .other (by decide) _ _
        · exact .quiet hr.2
  | send status size =>
    obtain ⟨hr, h⟩ := operation_next ((exec_send s status size).symm.trans h)
    split at h <;> cases h
    · exact .other (by decide) _ _
    · exact .quiet hr.2
  | bufRd addr => exact bufAccess_unrefused rfl ((exec_bufRd_eq_access s addr).symm.trans h)
  | bufWr data addr => exact bufAccess_unrefused rfl ((exec_bufWr_eq_access s data addr).symm.trans h)
  | getSize =>
    obtain ⟨hr, h⟩ := operation_next ((exec_getSize s).symm.trans h)
    cases h; exact .quiet hr.2
  | reservedOp67 | reservedOp815 | reservedBits => cases hi
  | reset | rxDetectSignOn | rxDetectStart | rxDetectFail | rxAStart | rxABadStart | rxAToken | rxALength | rxBExt
  | rxBTable | rxBUnresolved | wireAFrame | wireBFrame => cases hw

/-- A step that takes a request word is that word's operation. -/
theorem step_request {s : State} {w : Word} {rest : List Input} (hp : s.port = .request w :: rest) :
    step s = exec (decodeWord w) (withPort rest s) :=
  (step_of_decodeInput hp rfl).trans (settle_fromClient rfl s _)

/-- Settles O53: the reserved words are those read as a reserved row, and only these rows record a refusal. -/
theorem reservedWordsAreRefused : Obligations.ReservedWordsAreRefused := by
  intro s w rest hr hp
  rw [← opOf_eq_shiftRight, ← isReserved_decodeWord_iff, step_request hp]
  refine ⟨fun hres => ?_, fun t h hf => ?_⟩
  · rw [exec_of_isReserved hres (encode_decodeWord w)]
    exact refuseWord_of_ready (s := withPort rest s) hr w
  · by_contra hres
    exact (exec_request_unrefused (encode_decodeWord w) (Bool.eq_false_iff.2 hres) h).fault_ne w hf

end Sys2Proof.Machine

/-! ## Exceptions (60_exceptions.md) -/

namespace Sys2Proof.Machine

/-! ### After a recorded fault (R206) -/

/-- Only a ready block has an operation. -/
theorem ready_of_exec_next {i : Instr} {s t : State} (h : exec i s = .next t) : Ready s := by
  obtain ⟨body, hb⟩ := exec_isOperation s i
  exact (operation_next (hb.symm.trans h)).1

/-- Only a ready block has a step, waiting included. -/
theorem ready_of_step_next {s t : State} (h : step s = .next t) : Ready s := by
  obtain ⟨o, ho⟩ := step_isOperation s
  exact (ifReady_next (ho.symm.trans h)).1

theorem not_ready_of_faulted {s : State} {f : FaultRecord} (hf : s.fault = some f) : ¬ Ready s := by
  rintro ⟨-, hnone⟩
  cases hf.symm.trans hnone

theorem exec_faulted {s : State} {f : FaultRecord} (hc : s.cfg.wf = true) (hf : s.fault = some f) (i : Instr) :
    exec i s = .fault (.stuck f.reason) := by
  obtain ⟨body, hb⟩ := exec_isOperation s i
  exact hb.trans (ifReady_faulted hc hf)

theorem step_faulted {s : State} {f : FaultRecord} (hc : s.cfg.wf = true) (hf : s.fault = some f) :
    step s = .fault (.stuck f.reason) := by
  obtain ⟨o, ho⟩ := step_isOperation s
  exact ho.trans (ifReady_faulted hc hf)

/-- Settles O15: every instruction and every step begins with the check for a recorded fault. -/
theorem recordedFaultIsPermanent : Obligations.RecordedFaultIsPermanent := by
  intro s f hf
  have hnot := not_ready_of_faulted hf
  exact ⟨fun _ _ h => hnot (ready_of_exec_next h), fun _ h => hnot (ready_of_step_next h),
    fun hc => ⟨exec_faulted hc hf, step_faulted hc hf⟩⟩

/-! ### What a request that presents no byte answers in a ready block (R205) -/

/-- How a request is answered in a ready block: always with a next state, which has no fault recorded, or is the state at
the start of the operation with the fault of the request's own word. -/
inductive AnswersRequest (i : Instr) (s : State) : Host.Outcome State Fault Refusal → Prop
  | quiet {t : State} (h : t.fault = none) : AnswersRequest i s (.next t)
  | faulted {w : Word} (hw : encode i = .request w) (r : FaultReason) :
      AnswersRequest i s (.next (raiseFault r w (startOp s)))

/-- BUF_RD and BUF_WR: the phase fault, the range fault, or the access. -/
theorem bufAccess_answersRequest {i : Instr} {w : Word} {s : State} (hr : Ready s) (hw : encode i = .request w)
    (addr : Half) {access : State → State} (haccess : (access (startOp s)).fault = s.fault) :
    AnswersRequest i s (bufAccess w addr access s) := by
  by_cases hs : s.state = .complete
  · rw [bufAccess_of_complete hr hs]
    split
    · exact .faulted hw _
    · exact .quiet (haccess.trans hr.2)
  · rw [bufAccess_of_wrongPhase hr hs]
    exact .faulted hw _

theorem exec_ensure_answersRequest {s : State} (hr : Ready s) (req : Half) :
    AnswersRequest (.ensure req) s (exec (.ensure req) s) := by
  rw [exec_ensure, operation_of_ready hr]
  split
  · exact .faulted rfl _
  · split
    · exact .quiet hr.2
    · split
      · exact .faulted rfl _
      · exact .quiet hr.2

theorem exec_send_answersRequest {s : State} (hr : Ready s) (status : Byte) (size : Half) :
    AnswersRequest (.send status size) s (exec (.send status size) s) := by
  rw [exec_send, operation_of_ready hr]
  split
  · exact .faulted rfl _
  · exact .quiet hr.2

/-- Every request that presents no byte is answered so; a POLL without a byte is always quiet. -/
theorem exec_request_answersRequest {i : Instr} {w : Word} {s : State} (hr : Ready s) (hw : encode i = .request w)
    (hp : presented i = none) : AnswersRequest i s (exec i s) := by
  cases i with
  | poll v b =>
    cases v with
    | false =>
      rw [exec_poll, operation_of_ready hr, pollBody_idle (.inr rfl)]
      exact .quiet hr.2
    | true => cases hp
  | ensure req => exact exec_ensure_answersRequest hr req
  | send status size => exact exec_send_answersRequest hr status size
  | bufRd addr =>
    rw [exec_bufRd_eq_access]
    exact bufAccess_answersRequest hr rfl addr rfl
  | bufWr data addr =>
    rw [exec_bufWr_eq_access]
    exact bufAccess_answersRequest hr rfl addr rfl
  | getSize =>
    rw [exec_getSize, operation_of_ready hr]
    exact .quiet hr.2
  | reservedOp67 | reservedOp815 | reservedBits =>
    rw [exec_of_isReserved rfl rfl, refuseWord_of_ready hr]
    exact .faulted rfl _
  | reset | rxDetectSignOn | rxDetectStart | rxDetectFail | rxAStart | rxABadStart | rxAToken | rxALength | rxBExt
  | rxBTable | rxBUnresolved | wireAFrame | wireBFrame => cases hw

theorem AnswersRequest.exists_next {i : Instr} {s : State} {o : Host.Outcome State Fault Refusal}
    (h : AnswersRequest i s o) : ∃ t, o = .next t := by
  cases h <;> exact ⟨_, rfl⟩

/-! ### Nothing but a recorded fault stops the block (R200, R205) -/

/-- A POLL has a next state: it consumes nothing, or its store index is inside the frame buffer (20_memory.md R59). -/
theorem Inv.exists_pollBody_next {s : State} (h : Inv s) (b : Byte) : ∃ t, pollBody true b s = .next t := by
  by_cases hs : s.state = .complete
  · exact ⟨_, pollBody_idle (.inl hs)⟩
  · exact ⟨_, pollBody_of_room hs (h.room hs)⟩

/-- The POLLs of a sequence of bytes have next states, as each keeps the invariant. -/
theorem Inv.exists_feed_next {s : State} (h : Inv s) (bs : List Byte) : ∃ t, feed bs s = .next t := by
  induction bs generalizing s with
  | nil => exact ⟨s, rfl⟩
  | cons b bs ih =>
    obtain ⟨u, hu⟩ := h.startOp.exists_pollBody_next b
    rw [feed_cons hu]
    exact ih (h.startOp.inv_pollBody hu)

theorem Inv.exists_exec_next {s : State} (h : Inv s) (hf : s.fault = none) (i : Instr) : ∃ t, exec i s = .next t := by
  have hr : Ready s := ⟨h.cfgOk, hf⟩
  obtain rfl | ⟨w, hw, hp⟩ | ⟨b, hp⟩ | ⟨bs, hw⟩ := instr_kind i
  · exact ⟨_, (exec_reset s).trans (operation_of_ready hr)⟩
  · exact (exec_request_answersRequest hr hw hp).exists_next
  · rw [h.exec_presented_eq_poll hp, exec_poll, operation_of_ready hr]
    exact h.startOp.exists_pollBody_next b
  · rw [exec_wire hw, operation_of_ready hr]
    exact h.startOp.exists_feed_next bs

/-- Settling keeps a next state a next state, so a step stops only where its operation does. -/
theorem Inv.exists_step_next {s : State} (h : Inv s) (hf : s.fault = none) : ∃ t, step s = .next t := by
  cases hp : s.port with
  | nil => exact ⟨s, step_of_port_nil_of_ready hp ⟨h.cfgOk, hf⟩⟩
  | cons inp rest =>
    obtain ⟨u, hu⟩ := (h.inv_withPort rest).exists_exec_next hf (operationOf (context s) inp)
    rw [step_of_port_cons hp, hu]
    exact ⟨_, rfl⟩

/-- Settles O17: requests always complete, and the invariant keeps every store index in range. -/
theorem readyBlockNeverStops : Obligations.ReadyBlockNeverStops :=
  fun _ h hf => ⟨h.exists_exec_next hf, h.exists_step_next hf⟩

/-! ### A presented byte records no fault (R205) -/

theorem exec_poll_fault {v : Bool} {b : Byte} {s t : State} (h : exec (.poll v b) s = .next t) : t.fault = none := by
  obtain ⟨hr, hb⟩ := operation_next ((exec_poll s v b).symm.trans h)
  exact (hr.of_pollBody hb).2

/-- A row records no fault if its own effect after the intake does not. -/
theorem rxRow_fault {i : Instr} {b : Byte} {row : State → State} {s t : State} (h : rxRow i b row s = .next t)
    (hrow : ∀ u, (row u).fault = u.fault) : t.fault = none := by
  obtain ⟨hr, hb⟩ := operation_next h
  split at hb
  · obtain ⟨-, rfl⟩ := presentByte_next hb
    exact (hrow _).trans hr.2
  · exact (hr.of_pollBody hb).2

theorem exec_rxALength_fault {len : Half} {s t : State} (h : exec (.rxALength len) s = .next t) : t.fault = none := by
  obtain ⟨hr, hb⟩ := operation_next ((exec_rxALength s len).symm.trans h)
  split at hb
  · obtain ⟨-, rfl⟩ := presentByte_next hb
    split <;> exact hr.2
  · exact (hr.of_pollBody hb).2

/-- An instruction that presents a byte, a POLL or a row in its context or out of it, records no fault. -/
theorem exec_presented_fault {i : Instr} {b : Byte} {s t : State} (hp : presented i = some b)
    (h : exec i s = .next t) : t.fault = none := by
  cases i with
  | poll v d => exact exec_poll_fault h
  | rxDetectSignOn d => exact rxRow_fault h fun _ => firstByteB_fault d _
  | rxDetectStart | rxDetectFail | rxAStart | rxABadStart | rxBExt | rxBUnresolved => exact rxRow_fault h fun _ => rfl
  | rxAToken d =>
    refine rxRow_fault h fun u => ?_
    split
    · exact lengthStep_fault u
    · rfl
  | rxALength len => exact exec_rxALength_fault h
  | rxBTable d => exact rxRow_fault h fun u => enterBodyB_fault _ u
  | ensure | send | bufRd | bufWr | getSize | reservedOp67 | reservedOp815 | reservedBits | reset | wireAFrame
  | wireBFrame => cases hp

/-- The POLLs of a sequence of bytes keep the block ready. -/
theorem Ready.of_feed {bs : List Byte} {s t : State} (hr : Ready s) (h : feed bs s = .next t) : Ready t := by
  induction bs generalizing s with
  | nil => cases h; exact hr
  | cons b bs ih =>
    obtain ⟨u, hb, hbs⟩ := feed_cons_next h
    exact ih (hr.of_pollBody hb) hbs

theorem exec_wire_fault {i : Instr} {bs : List Byte} {s t : State} (hw : encode i = .wire bs)
    (h : exec i s = .next t) : t.fault = none := by
  obtain ⟨hr, hb⟩ := operation_next ((exec_wire hw s).symm.trans h)
  have hstart : Ready (startOp s) := hr
  exact (hstart.of_feed hb).2

/-! ### The obligations on a single operation -/

/-- Settles O23: of the four kinds of instruction only a request without a byte records a fault, and then nothing else. -/
theorem faultingOperationChangesNothingElse : Obligations.FaultingOperationChangesNothingElse := by
  intro i s t f h hf
  have hr := ready_of_exec_next h
  have notQuiet (hnone : t.fault = none) : False := by cases hnone.symm.trans hf
  have hnotPoll (v : Bool) (b : Byte) : i ≠ .poll v b := by
    rintro rfl
    exact notQuiet (exec_poll_fault h)
  obtain rfl | ⟨w, hw, hp⟩ | ⟨b, hp⟩ | ⟨bs, hw⟩ := instr_kind i
  · cases exec_reset_next h
    exact (notQuiet hr.2).elim
  · have ha := exec_request_answersRequest hr hw hp
    rw [h] at ha
    cases ha with
    | quiet hnone => exact (notQuiet hnone).elim
    | faulted hw r => cases hf; exact ⟨rfl, hw, hnotPoll⟩
  · exact (notQuiet (exec_presented_fault hp h)).elim
  · exact (notQuiet (exec_wire_fault hw h)).elim

/-- Settles O26: a POLL returns early, or takes its byte and then only answers. -/
theorem pollConsumesAtMostOneByte : Obligations.PollConsumesAtMostOneByte := by
  intro s t v b h
  obtain ⟨-, hb⟩ := operation_next ((exec_poll s v b).symm.trans h)
  obtain ⟨hidle, rfl⟩ | ⟨hs, hv, -, rfl⟩ := pollBody_next hb
  · have hnone : ¬ (s.state ≠ .complete ∧ v = true) := fun ⟨hs, hv⟩ => hidle.elim hs (by simp [hv])
    exact ⟨false, .incomplete, rfl, (List.append_nil _).symm, iff_of_false (by decide) hnone⟩
  · obtain ⟨hrx, k, -, hresult, -⟩ := afterIntake_answersByte b (takeByte b (startOp s))
    exact ⟨true, k, hresult, hrx, iff_of_true rfl ⟨hs, hv⟩⟩

end Sys2Proof.Machine

/-! ## Reset and hazards (70_reset_and_hazards.md) -/

namespace Sys2Proof.Machine

/-! ### Power-up (R232) and the hard reset (R231) -/

/-- Settles O7 by the definition of power-up, whose fixed values depend on no configuration. -/
theorem powerUpState : Obligations.PowerUpState :=
  ⟨fun _ => ⟨rfl, rfl, rfl, rfl, rfl, rfl, rfl, rfl⟩, rfl⟩

/-- Settles O9: nothing but the check before the operation could stop a hard reset, and a ready state passes it. -/
theorem hardResetCompletes : Obligations.HardResetCompletes := by
  intro s hr
  have hnext : exec .reset s = .next (hardReset (startOp s)) := (exec_reset s).trans (operation_of_ready hr)
  exact ⟨hardReset (startOp s), hnext, rfl⟩

end Sys2Proof.Machine
